-- ==== Sys2Proof/Word.lean ====
section
/-! DEFINITION. The words of XFSC-I2CS and the index types of its buses, devices and telemetry slots
(spec/00_scope.md R5, R8). All values are unsigned; arithmetic on a field of n bits is modulo 2^n. -/

namespace Sys2Proof

/-- A byte on the wire or in a one-byte register (R64). -/
abbrev Byte := BitVec 8

/-- A 16-bit tach value (R40). -/
abbrev Tach := BitVec 16

/-- A register address of a device, seven bits (R34, `REGW` of R5). -/
abbrev RegAddr := BitVec 7

/-- A 7-bit I2C device address (R60). -/
abbrev DevAddr := BitVec 7

/-- A physical bus, `NBUS` = 2 (R5). -/
abbrev BusId := Fin 2

/-- An emulated device, `NDEV` = 8 (R5). -/
abbrev DevId := Fin 8

/-- A telemetry slot, `NSLOT` = 14 (R5). -/
abbrev SlotId := Fin 14

end Sys2Proof
end

