-- ==== Sys2Proof/Config.lean ====
section
/-! DEFINITION. The parameters of the block (spec/00_scope.md R5) and its free values: the two OPEN
parameters of the auxiliary responder (D9) and the unspecified byte `ANY8` (R228, R173). A constant
without a body is a free value: nothing can be proved of what it is. -/

namespace Sys2Proof.Config

/-- `DEV_BASE`, the lowest address of the device family (R5, D8). -/
def devBase : DevAddr := 0x50#7

/-- `NSLOT`, the number of telemetry slots (R5). -/
abbrev nslot : Nat := 14

/-- `PRIV_DEV`, the device that owns slots 12 and 13 (R5, R230). -/
def privDev : DevId := 6

/-- FREE VALUE: which of the 124 addresses outside the family is `AUX_ADDR` (R5: OPEN; it
"must satisfy `AUX_ADDR < DEV_BASE or AUX_ADDR > DEV_BASE+3`"). Assumption log 5. -/
opaque auxIndex : Fin 124

/-- `AUX_ADDR`: the addresses below the family keep their index, those above it follow
(assumption log 5). Every legal value is the image of one index. -/
def auxAddr : DevAddr :=
  if auxIndex.val < 0x50 then BitVec.ofNat 7 auxIndex.val else BitVec.ofNat 7 (auxIndex.val + 4)

/-- FREE VALUE: `AUX_SENTINEL`, the byte the auxiliary address answers reads with (R5: OPEN).
Assumption log 5. -/
opaque auxSentinel : Byte

/-- FREE VALUE: `ANY8`, "a fresh unspecified byte for each read" (R228): the n-th draw made for
devices of one bus. Assumption log 6. -/
opaque any8 : BusId → Nat → Byte

end Sys2Proof.Config
end

