-- ==== Sys2Proof/Syntax.lean ====
section
/-! DEFINITION. The operations of XFSC-I2CS as syntax: one constructor per row of
spec/opcode_table.json (spec/30_encoding.md R105), in the table's order. The block fetches no
instructions (R43); an operation is what an event, a byte or a call selects (R100, R101). -/

namespace Sys2Proof

/-- The ten values of `bus[b].state` (R22). -/
inductive BusState where
  | idle | address | addressAck | readPrepare | read | readAck | writePrepare | write | writeAck
  | waitStop
  deriving DecidableEq, Repr

/-- Which of the two lines of a bus an event reports (R10, R99). -/
inductive Line where
  | clock | data
  deriving DecidableEq, Repr

/-- The operations. Operands are the agent (the bus or the device) and every bit the row's encoding
leaves free, so that a word can be written back from its operation. -/
inductive Instr where
  -- DISP7: the bus decoder, selected by the dispatch word {state, line, scl, sda} (R100)
  | evStop (b : BusId) (st : BusState)
  | evStartIdle (b : BusId)
  | evStartWrite (b : BusId)
  | evDatNopScl1 (b : BusId) (st : BusState)
  | evDatNopScl0 (b : BusId) (st : BusState) (sda : Bool)
  | addrShift (b : BusId) (sda : Bool)
  | addrAck (b : BusId) (sda : Bool)
  | rdPrep (b : BusId) (sda : Bool)
  | rdBit (b : BusId) (sda : Bool)
  | rdAck (b : BusId) (sda : Bool)
  | wrPrep (b : BusId) (sda : Bool)
  | wrShift (b : BusId) (sda : Bool)
  | wrAck (b : BusId) (sda : Bool)
  | clkInertIdle (b : BusId) (scl sda : Bool)
  | clkInertWaitStop (b : BusId) (scl sda : Bool)
  | clkGuard (b : BusId) (st : BusState) (scl sda : Bool)
  -- ADDR8: the outcomes of an address byte (R91, R128); `oo` is the offset in the family
  | addrFamW (b : BusId) (oo : BitVec 2)
  | addrFamR (b : BusId) (oo : BitVec 2)
  | addrAuxW (b : BusId)
  | addrAuxR (b : BusId)
  | addrNoMatch (b : BusId) (a : Byte)
  -- CMD8: the command byte (R92)
  | cmdSingle (d : DevId) (r : RegAddr)
  | cmdBlock (d : DevId) (r : RegAddr)
  -- REG7W: register writes (R215 to R223); `v` is the byte written
  | rfWRdcnt (d : DevId) (v : Byte)
  | rfWEnable (d : DevId) (v : Byte)
  | rfWReq0Lo (d : DevId) (v : Byte)
  | rfWReq0Hi (d : DevId) (v : Byte)
  | rfWReq1Lo (d : DevId) (v : Byte)
  | rfWReq1Hi (d : DevId) (v : Byte)
  | rfWStartTrig (d : DevId) (v : Byte)
  | rfWNone (d : DevId) (r : RegAddr) (v : Byte)
  -- REG7R: register reads (R224 to R228)
  | rfRAct0Lo (d : DevId)
  | rfRAct0Hi (d : DevId)
  | rfRAct1Lo (d : DevId)
  | rfRAct1Hi (d : DevId)
  | rfRNone (d : DevId) (r : RegAddr)
  -- DEVOP: the device register state machine (R186 to R196)
  | dwIdle (d : DevId) (v : Byte)
  | dwSingle (d : DevId) (v : Byte)
  | dwBlockCount (d : DevId) (v : Byte)
  | dwBlockRw (d : DevId) (v : Byte)
  | dwInvalid (d : DevId) (v : Byte)
  | drIdle (d : DevId)
  | drSingle (d : DevId)
  | drBlockCount (d : DevId)
  | drBlockRw (d : DevId)
  | drInvalid (d : DevId)
  | dstop (d : DevId)
  -- PORT: the main-loop port (R232 to R236)
  | hostRdReq (i : SlotId)
  | hostRdEn (i : SlotId)
  | hostWrAct (i : SlotId) (x : Tach)
  | hostTacStart
  | hostTacRpm
  deriving DecidableEq, Repr

/-- The seven formats of the table (R105). -/
inductive Format where
  | disp7 | addr8 | cmd8 | reg7w | reg7r | devop | port
  deriving DecidableEq, Repr

/-- The format of an operation's row. -/
def Instr.format : Instr → Format
  | .evStop _ _ | .evStartIdle _ | .evStartWrite _ | .evDatNopScl1 _ _ | .evDatNopScl0 _ _ _
  | .addrShift _ _ | .addrAck _ _ | .rdPrep _ _ | .rdBit _ _ | .rdAck _ _ | .wrPrep _ _
  | .wrShift _ _ | .wrAck _ _ | .clkInertIdle _ _ _ | .clkInertWaitStop _ _ _ | .clkGuard _ _ _ _ => .disp7
  | .addrFamW _ _ | .addrFamR _ _ | .addrAuxW _ | .addrAuxR _ | .addrNoMatch _ _ => .addr8
  | .cmdSingle _ _ | .cmdBlock _ _ => .cmd8
  | .rfWRdcnt _ _ | .rfWEnable _ _ | .rfWReq0Lo _ _ | .rfWReq0Hi _ _ | .rfWReq1Lo _ _
  | .rfWReq1Hi _ _ | .rfWStartTrig _ _ | .rfWNone _ _ _ => .reg7w
  | .rfRAct0Lo _ | .rfRAct0Hi _ | .rfRAct1Lo _ | .rfRAct1Hi _ | .rfRNone _ _ => .reg7r
  | .dwIdle _ _ | .dwSingle _ _ | .dwBlockCount _ _ | .dwBlockRw _ _ | .dwInvalid _ _ | .drIdle _
  | .drSingle _ | .drBlockCount _ | .drBlockRw _ | .drInvalid _ | .dstop _ => .devop
  | .hostRdReq _ | .hostRdEn _ | .hostWrAct _ _ | .hostTacStart | .hostTacRpm => .port

end Sys2Proof
end

