-- ==== Sys2Proof/Machine/Operands.lean ====
section
/-! DEFINITION. Operand forms: how bytes are assembled and taken apart (spec/30_encoding.md R91 to
R98), the address match (spec/40_bus_decoder.md R128), the slot indices (spec/10_state.md R37), and
the operation the bus decoder's rules select (spec/40_bus_decoder.md R122 to R135). Pure functions. -/

namespace Sys2Proof.Machine

/-- `{acc[6:0], bit}`: one received bit shifted in, the first bit received ends in bit 7 (R96). -/
def shiftIn (acc : Byte) (bit : Bool) : Byte := acc.extractLsb' 0 7 ++ BitVec.ofBool bit

/-- `{sh[6:0], 0}`: a sent byte shifted left once (R96). -/
def shiftOut (sh : Byte) : Byte := sh.extractLsb' 0 7 ++ 0#1

/-- `sh[7]`, the "current most-significant unsent bit" (R61, R131). -/
def unsentBit (sh : Byte) : Bool := sh.getLsbD 7

/-- `addr[7:1]`, the 7-bit device address of an address byte (R91). -/
def addr7 (a : Byte) : DevAddr := a.extractLsb' 1 7

/-- `addr[0]`, the read/write bit: 1 = read (R91, D10; from general knowledge, assumption log 10). -/
def rwBit (a : Byte) : Bool := a.getLsbD 0

/-- The address byte `{a7, rw}` (R91). -/
def addrByte (a7 : DevAddr) (rw : Bool) : Byte := a7 ++ BitVec.ofBool rw

/-- The address byte of the family member at offset `oo`: `0b10100oo` and the read/write bit (R91). -/
def famByte (oo : BitVec 2) (rw : Bool) : Byte := addrByte (Config.devBase + oo.zeroExtend 7) rw

/-- `v[6:0]` of a command byte: the register address (R92). -/
def cmdReg (v : Byte) : RegAddr := v.extractLsb' 0 7

/-- `v[7]` of a command byte: block transfer (R92). -/
def cmdBlk (v : Byte) : Bool := v.getLsbD 7

/-- The command byte `{blk, reg}` (R92). -/
def cmdByte (blk : Bool) (r : RegAddr) : Byte := BitVec.ofBool blk ++ r

/-- `{hi, lo}` = `hi * 256 + lo` (R97, R231). -/
def combine16 (hi lo : Byte) : Tach := hi ++ lo

/-- `x[7:0]` (R97). -/
def lowByte (x : Tach) : Byte := x.extractLsb' 0 8

/-- `x[15:8]` (R97). -/
def highByte (x : Tach) : Byte := x.extractLsb' 8 8

/-- `slot0(d)` = `2*d` (R37). A natural number: device 7's lies outside the arrays. -/
def slot0 (d : DevId) : Nat := 2 * d.val

/-- `slot1(d)` = `2*d + 1` (R37). -/
def slot1 (d : DevId) : Nat := 2 * d.val + 1

/-- Device `d` belongs to bus `d div 4` (R32). -/
def busOf (d : DevId) : BusId := ⟨d.val / 4, by omega⟩

/-- `MATCH(a7)`: the four family addresses or `AUX_ADDR` (R128). -/
def matchAddr (a7 : DevAddr) : Bool :=
  (decide (Config.devBase ≤ a7) && decide (a7 ≤ Config.devBase + 3#7)) || a7 == Config.auxAddr

/-- The operation a delivered data-line event selects: the stop test precedes the start test
(R122 to R124). -/
def dataOp (b : BusId) (st : BusState) (scl sda : Bool) : Instr :=
  match scl, sda, st with
  | true, true, st => .evStop b st
  | true, false, .idle => .evStartIdle b
  | true, false, .write => .evStartWrite b
  | true, false, st => .evDatNopScl1 b st
  | false, sda, st => .evDatNopScl0 b st sda

/-- The operation a clock-line event selects once it has passed the level guard (R126 to R135). -/
def clockOp (b : BusId) (st : BusState) (scl sda : Bool) : Instr :=
  match st with
  | .idle => .clkInertIdle b scl sda
  | .address => .addrShift b sda
  | .addressAck => .addrAck b sda
  | .readPrepare => .rdPrep b sda
  | .read => .rdBit b sda
  | .readAck => .rdAck b sda
  | .writePrepare => .wrPrep b sda
  | .write => .wrShift b sda
  | .writeAck => .wrAck b sda
  | .waitStop => .clkInertWaitStop b scl sda

end Sys2Proof.Machine
end

