-- ==== Sys2Proof/WellFormed.lean ====
section
/-! DEFINITION. Which operation terms stand for a word of the table. A row of spec/opcode_table.json
that matches "any remaining" word is well-formed only where no earlier row of its format matches
(spec/30_encoding.md R105: "first match wins"). Every other bound is in the operands' types. -/

namespace Sys2Proof

/-- The register addresses with a write meaning (R39, R216 to R222). -/
def writeMeaning (r : RegAddr) : Bool :=
  r == 0x00#7 || r == 0x07#7 || r == 0x2A#7 || r == 0x2B#7 || r == 0x2C#7 || r == 0x2D#7 || r == 0x3C#7

/-- The register addresses with a read meaning (R39, R224 to R227). -/
def readMeaning (r : RegAddr) : Bool :=
  r == 0x4A#7 || r == 0x4B#7 || r == 0x4C#7 || r == 0x4D#7

/-- The clock level the map of R100 gives a state's clock row; none for the two states whose row
takes either level. -/
def clockColumn : BusState → Option Bool
  | .idle | .waitStop => none
  | .address | .write => some true
  | .addressAck | .readPrepare | .read | .readAck | .writePrepare | .writeAck => some false

/-- Well-formed: the term is what some word of its format decodes to. -/
def Instr.wf : Instr → Bool
  | .evDatNopScl1 _ st => st != .idle && st != .write
  | .clkGuard _ st scl _ => clockColumn st == some (!scl)
  | .addrNoMatch _ a => !Machine.matchAddr (Machine.addr7 a)
  | .rfWNone _ r _ => !writeMeaning r
  | .rfRNone _ r => !readMeaning r
  | .evStop _ _ | .evStartIdle _ | .evStartWrite _ | .evDatNopScl0 _ _ _ | .addrShift _ _
  | .addrAck _ _ | .rdPrep _ _ | .rdBit _ _ | .rdAck _ _ | .wrPrep _ _ | .wrShift _ _ | .wrAck _ _
  | .clkInertIdle _ _ _ | .clkInertWaitStop _ _ _ => true
  | .addrFamW _ _ | .addrFamR _ _ | .addrAuxW _ | .addrAuxR _ => true
  | .cmdSingle _ _ | .cmdBlock _ _ => true
  | .rfWRdcnt _ _ | .rfWEnable _ _ | .rfWReq0Lo _ _ | .rfWReq0Hi _ _ | .rfWReq1Lo _ _
  | .rfWReq1Hi _ _ | .rfWStartTrig _ _ => true
  | .rfRAct0Lo _ | .rfRAct0Hi _ | .rfRAct1Lo _ | .rfRAct1Hi _ => true
  | .dwIdle _ _ | .dwSingle _ _ | .dwBlockCount _ _ | .dwBlockRw _ _ | .dwInvalid _ _ => true
  | .drIdle _ | .drSingle _ | .drBlockCount _ | .drBlockRw _ | .drInvalid _ | .dstop _ => true
  | .hostRdReq _ | .hostRdEn _ | .hostWrAct _ _ | .hostTacStart | .hostTacRpm => true

end Sys2Proof
end

