-- ==== Sys2Proof/Decode.lean ====
section
/-! DEFINITION. The decoder and the encoder of the operation map.

The words of the formats DISP7, ADDR8, CMD8, REG7W and REG7R are the spec's (spec/30_encoding.md R91,
R92, R100, R105; spec/opcode_table.json). The FRAME a word stands in is the model's own (assumption log 3):
a frame is a list of bytes: the format, the agent (bus or device), the word, then the operand bytes
that the table gives no bits (the byte written, the slot, the 16-bit value). The rows without bits
(DEVOP, PORT) are numbered in the table's order. -/

namespace Sys2Proof

/-- Why a list of bytes is no frame of an operation. -/
inductive DecodeError where
  | empty
  | unknownFormat (f : Byte)
  | wrongLength (f : Byte)
  | noSuchBus (x : Byte)
  | noSuchDevice (x : Byte)
  | noSuchSlot (x : Byte)
  | noSuchOperation (x : Byte)
  | wordTooWide (x : Byte)
  | reservedStateCode (x : Byte)
  deriving DecidableEq, Repr

/-- What decoding answers: an operation, or a rejection by name. -/
inductive Decoded where
  | ok (i : Instr)
  | bad (e : DecodeError)
  deriving DecidableEq, Repr

/-- The numeric code of a decoder state (R22, R100). -/
def stateCode : BusState → BitVec 4
  | .idle => 0
  | .address => 1
  | .addressAck => 2
  | .readPrepare => 3
  | .read => 4
  | .readAck => 5
  | .writePrepare => 6
  | .write => 7
  | .writeAck => 8
  | .waitStop => 9

/-- The state of a code; "State codes 10 to 15 do not occur" (R100). -/
def stateOfCode (c : BitVec 4) : Option BusState :=
  if c = 0 then some .idle
  else if c = 1 then some .address
  else if c = 2 then some .addressAck
  else if c = 3 then some .readPrepare
  else if c = 4 then some .read
  else if c = 5 then some .readAck
  else if c = 6 then some .writePrepare
  else if c = 7 then some .write
  else if c = 8 then some .writeAck
  else if c = 9 then some .waitStop
  else none

/-- `line` = 0 for a clock-line event and 1 for a data-line event (R99). -/
def lineBit : Line → Bool
  | .clock => false
  | .data => true

/-- The dispatch word `{state[3:0], line, scl, sda}` (R100). -/
def dispatchWord (st : BusState) (line : Line) (scl sda : Bool) : BitVec 7 :=
  stateCode st ++ BitVec.ofBool (lineBit line) ++ BitVec.ofBool scl ++ BitVec.ofBool sda

/-- The DISP7 rows of spec/opcode_table.json in the table's order, each by its mask and match; the
first that matches wins (R105). `st` is the state whose code the word holds. -/
def disp7Row (b : BusId) (st : BusState) (w : BitVec 7) : Instr :=
  let sda := w.getLsbD 0
  let scl := w.getLsbD 1
  if w &&& 0x07#7 = 0x07#7 then .evStop b st
  else if w &&& 0x7F#7 = 0x06#7 then .evStartIdle b
  else if w &&& 0x7F#7 = 0x3E#7 then .evStartWrite b
  else if w &&& 0x07#7 = 0x06#7 then .evDatNopScl1 b st
  else if w &&& 0x06#7 = 0x04#7 then .evDatNopScl0 b st sda
  else if w &&& 0x7E#7 = 0x0A#7 then .addrShift b sda
  else if w &&& 0x7E#7 = 0x10#7 then .addrAck b sda
  else if w &&& 0x7E#7 = 0x18#7 then .rdPrep b sda
  else if w &&& 0x7E#7 = 0x20#7 then .rdBit b sda
  else if w &&& 0x7E#7 = 0x28#7 then .rdAck b sda
  else if w &&& 0x7E#7 = 0x30#7 then .wrPrep b sda
  else if w &&& 0x7E#7 = 0x3A#7 then .wrShift b sda
  else if w &&& 0x7E#7 = 0x40#7 then .wrAck b sda
  else if w &&& 0x7C#7 = 0x00#7 then .clkInertIdle b scl sda
  else if w &&& 0x7C#7 = 0x48#7 then .clkInertWaitStop b scl sda
  else .clkGuard b st scl sda

/-- The ADDR8 rows in the table's order (R91, R105); the two auxiliary rows are parameterised by
`AUX_ADDR`. -/
def addr8Row (b : BusId) (a : Byte) : Instr :=
  if a &&& 0xF9#8 = 0xA0#8 then .addrFamW b (a.extractLsb' 1 2)
  else if a &&& 0xF9#8 = 0xA1#8 then .addrFamR b (a.extractLsb' 1 2)
  else if a = Machine.addrByte Config.auxAddr false then .addrAuxW b
  else if a = Machine.addrByte Config.auxAddr true then .addrAuxR b
  else .addrNoMatch b a

/-- The CMD8 rows (R92). -/
def cmd8Row (d : DevId) (v : Byte) : Instr :=
  if v &&& 0x80#8 = 0x00#8 then .cmdSingle d (v.extractLsb' 0 7) else .cmdBlock d (v.extractLsb' 0 7)

/-- The REG7W rows in the table's order (R215 to R223). -/
def reg7WRow (d : DevId) (r : RegAddr) (v : Byte) : Instr :=
  if r = 0x00#7 then .rfWRdcnt d v
  else if r = 0x07#7 then .rfWEnable d v
  else if r = 0x2A#7 then .rfWReq0Lo d v
  else if r = 0x2B#7 then .rfWReq0Hi d v
  else if r = 0x2C#7 then .rfWReq1Lo d v
  else if r = 0x2D#7 then .rfWReq1Hi d v
  else if r = 0x3C#7 then .rfWStartTrig d v
  else .rfWNone d r v

/-- The REG7R rows in the table's order (R224 to R228). -/
def reg7RRow (d : DevId) (r : RegAddr) : Instr :=
  if r = 0x4A#7 then .rfRAct0Lo d
  else if r = 0x4B#7 then .rfRAct0Hi d
  else if r = 0x4C#7 then .rfRAct1Lo d
  else if r = 0x4D#7 then .rfRAct1Hi d
  else .rfRNone d r

/-- The DEVOP rows that take a byte, numbered 0 to 4 in the table's order (R186 to R190). -/
def devopWriteRow (d : DevId) (op v : Byte) : Decoded :=
  if op = 0 then .ok (.dwIdle d v)
  else if op = 1 then .ok (.dwSingle d v)
  else if op = 2 then .ok (.dwBlockCount d v)
  else if op = 3 then .ok (.dwBlockRw d v)
  else if op = 4 then .ok (.dwInvalid d v)
  else .bad (.noSuchOperation op)

/-- The DEVOP rows that take none, numbered 5 to 10 in the table's order (R191 to R196). -/
def devopReadRow (d : DevId) (op : Byte) : Decoded :=
  if op = 5 then .ok (.drIdle d)
  else if op = 6 then .ok (.drSingle d)
  else if op = 7 then .ok (.drBlockCount d)
  else if op = 8 then .ok (.drBlockRw d)
  else if op = 9 then .ok (.drInvalid d)
  else if op = 10 then .ok (.dstop d)
  else .bad (.noSuchOperation op)

/-- Read a bus number, or reject it. -/
def withBus (x : Byte) (k : BusId → Decoded) : Decoded :=
  if h : x.toNat < 2 then k ⟨x.toNat, h⟩ else .bad (.noSuchBus x)

/-- Read a device number, or reject it. -/
def withDev (x : Byte) (k : DevId → Decoded) : Decoded :=
  if h : x.toNat < 8 then k ⟨x.toNat, h⟩ else .bad (.noSuchDevice x)

/-- Read a slot number, or reject it ("`i` in 0..13", R232). -/
def withSlot (x : Byte) (k : SlotId → Decoded) : Decoded :=
  if h : x.toNat < 14 then k ⟨x.toNat, h⟩ else .bad (.noSuchSlot x)

/-- Read a 7-bit word held in a byte, or reject it. -/
def withWord7 (x : Byte) (k : BitVec 7 → Decoded) : Decoded :=
  if x.getLsbD 7 then .bad (.wordTooWide x) else k (x.extractLsb' 0 7)

/-- Read the state field of a dispatch word, or reject it (R100). -/
def withState (x : Byte) (w : BitVec 7) (k : BusState → Decoded) : Decoded :=
  match stateOfCode (w.extractLsb' 3 4) with
  | some st => k st
  | none => .bad (.reservedStateCode x)

/-- A DISP7 frame: bus, word. -/
def decodeDisp7 : List Byte → Decoded
  | [b, x] => withBus b fun b => withWord7 x fun w => withState x w fun st => .ok (disp7Row b st w)
  | _ => .bad (.wrongLength 0)

/-- An ADDR8 frame: bus, address byte. -/
def decodeAddr8 : List Byte → Decoded
  | [b, a] => withBus b fun b => .ok (addr8Row b a)
  | _ => .bad (.wrongLength 1)

/-- A CMD8 frame: device, command byte. -/
def decodeCmd8 : List Byte → Decoded
  | [d, v] => withDev d fun d => .ok (cmd8Row d v)
  | _ => .bad (.wrongLength 2)

/-- A REG7W frame: device, register address, byte written. -/
def decodeReg7W : List Byte → Decoded
  | [d, x, v] => withDev d fun d => withWord7 x fun r => .ok (reg7WRow d r v)
  | _ => .bad (.wrongLength 3)

/-- A REG7R frame: device, register address. -/
def decodeReg7R : List Byte → Decoded
  | [d, x] => withDev d fun d => withWord7 x fun r => .ok (reg7RRow d r)
  | _ => .bad (.wrongLength 4)

/-- A DEVOP frame: device, operation number, and the byte where one is written. -/
def decodeDevop : List Byte → Decoded
  | [d, op, v] => withDev d fun d => devopWriteRow d op v
  | [d, op] => withDev d fun d => devopReadRow d op
  | _ => .bad (.wrongLength 5)

/-- A PORT frame: operation number, then the slot, then the 16-bit value low byte first (R62). -/
def decodePort : List Byte → Decoded
  | [op] => if op = 3 then .ok .hostTacStart else if op = 4 then .ok .hostTacRpm
            else .bad (.noSuchOperation op)
  | [op, i] => withSlot i fun i =>
      if op = 0 then .ok (.hostRdReq i) else if op = 1 then .ok (.hostRdEn i)
      else .bad (.noSuchOperation op)
  | [op, i, lo, hi] => withSlot i fun i =>
      if op = 2 then .ok (.hostWrAct i (Machine.combine16 hi lo)) else .bad (.noSuchOperation op)
  | _ => .bad (.wrongLength 6)

/-- The decoder: total on any bytes, rejecting by name. The first byte is the format. -/
def decode : List Byte → Decoded
  | [] => .bad .empty
  | f :: rest =>
    if f = 0 then decodeDisp7 rest
    else if f = 1 then decodeAddr8 rest
    else if f = 2 then decodeCmd8 rest
    else if f = 3 then decodeReg7W rest
    else if f = 4 then decodeReg7R rest
    else if f = 5 then decodeDevop rest
    else if f = 6 then decodePort rest
    else .bad (.unknownFormat f)

/-! ## The encoder -/

/-- A bus number as a byte. -/
def busByte (b : BusId) : Byte := BitVec.ofNat 8 b.val

/-- A device number as a byte. -/
def devByte (d : DevId) : Byte := BitVec.ofNat 8 d.val

/-- A slot number as a byte. -/
def slotByte (i : SlotId) : Byte := BitVec.ofNat 8 i.val

/-- A 7-bit word in a byte, bit 7 clear. -/
def word7 (w : BitVec 7) : Byte := 0#1 ++ w

/-- The frame of a dispatch word. -/
def disp7Frame (b : BusId) (st : BusState) (line : Line) (scl sda : Bool) : List Byte :=
  [0, busByte b, word7 (dispatchWord st line scl sda)]

/-- The frame of an operation, from the encodings of spec/opcode_table.json. -/
def encode : Instr → List Byte
  | .evStop b st => disp7Frame b st .data true true
  | .evStartIdle b => disp7Frame b .idle .data true false
  | .evStartWrite b => disp7Frame b .write .data true false
  | .evDatNopScl1 b st => disp7Frame b st .data true false
  | .evDatNopScl0 b st sda => disp7Frame b st .data false sda
  | .addrShift b sda => disp7Frame b .address .clock true sda
  | .addrAck b sda => disp7Frame b .addressAck .clock false sda
  | .rdPrep b sda => disp7Frame b .readPrepare .clock false sda
  | .rdBit b sda => disp7Frame b .read .clock false sda
  | .rdAck b sda => disp7Frame b .readAck .clock false sda
  | .wrPrep b sda => disp7Frame b .writePrepare .clock false sda
  | .wrShift b sda => disp7Frame b .write .clock true sda
  | .wrAck b sda => disp7Frame b .writeAck .clock false sda
  | .clkInertIdle b scl sda => disp7Frame b .idle .clock scl sda
  | .clkInertWaitStop b scl sda => disp7Frame b .waitStop .clock scl sda
  | .clkGuard b st scl sda => disp7Frame b st .clock scl sda
  | .addrFamW b oo => [1, busByte b, 0b10100#5 ++ oo ++ 0#1]
  | .addrFamR b oo => [1, busByte b, 0b10100#5 ++ oo ++ 1#1]
  | .addrAuxW b => [1, busByte b, Config.auxAddr ++ 0#1]
  | .addrAuxR b => [1, busByte b, Config.auxAddr ++ 1#1]
  | .addrNoMatch b a => [1, busByte b, a]
  | .cmdSingle d r => [2, devByte d, 0#1 ++ r]
  | .cmdBlock d r => [2, devByte d, 1#1 ++ r]
  | .rfWRdcnt d v => [3, devByte d, 0x00, v]
  | .rfWEnable d v => [3, devByte d, 0x07, v]
  | .rfWReq0Lo d v => [3, devByte d, 0x2A, v]
  | .rfWReq0Hi d v => [3, devByte d, 0x2B, v]
  | .rfWReq1Lo d v => [3, devByte d, 0x2C, v]
  | .rfWReq1Hi d v => [3, devByte d, 0x2D, v]
  | .rfWStartTrig d v => [3, devByte d, 0x3C, v]
  | .rfWNone d r v => [3, devByte d, word7 r, v]
  | .rfRAct0Lo d => [4, devByte d, 0x4A]
  | .rfRAct0Hi d => [4, devByte d, 0x4B]
  | .rfRAct1Lo d => [4, devByte d, 0x4C]
  | .rfRAct1Hi d => [4, devByte d, 0x4D]
  | .rfRNone d r => [4, devByte d, word7 r]
  | .dwIdle d v => [5, devByte d, 0, v]
  | .dwSingle d v => [5, devByte d, 1, v]
  | .dwBlockCount d v => [5, devByte d, 2, v]
  | .dwBlockRw d v => [5, devByte d, 3, v]
  | .dwInvalid d v => [5, devByte d, 4, v]
  | .drIdle d => [5, devByte d, 5]
  | .drSingle d => [5, devByte d, 6]
  | .drBlockCount d => [5, devByte d, 7]
  | .drBlockRw d => [5, devByte d, 8]
  | .drInvalid d => [5, devByte d, 9]
  | .dstop d => [5, devByte d, 10]
  | .hostRdReq i => [6, 0, slotByte i]
  | .hostRdEn i => [6, 1, slotByte i]
  | .hostWrAct i x => [6, 2, slotByte i, Machine.lowByte x, Machine.highByte x]
  | .hostTacStart => [6, 3]
  | .hostTacRpm => [6, 4]

/-! ## A table word without its format

The table's words of different formats overlap (0x07 is a dispatch word and a register address), and
a word says nothing of its format. `tableFrame` gives each word the format of the row that fixes the
most of its bits, bus, device and operand bytes 0 (assumption log 4). -/

/-- The frame a bare table word stands for. -/
def tableFrame (w : Nat) : List Byte :=
  let x : Byte := BitVec.ofNat 8 w
  if writeMeaning (x.extractLsb' 0 7) && !x.getLsbD 7 then [3, 0, x, 0]
  else if readMeaning (x.extractLsb' 0 7) && !x.getLsbD 7 then [4, 0, x]
  else if x &&& 0xF8#8 = 0xA0#8 then [1, 0, x]
  else if x.toNat < 0x50 then [0, 0, x]
  else [2, 0, x]

/-- The operation the decoder reads from a bare word of the table. -/
def decodeTableWord (_nbits w : Nat) : Option Instr :=
  match decode (tableFrame w) with
  | .ok i => some i
  | .bad _ => none

end Sys2Proof
end

