-- ==== Sys2Proof/Machine/State.lean ====
section
/-! DEFINITION. The state of XFSC-I2CS: two bus contexts, eight device contexts and the shared
telemetry state (spec/10_state.md R20 to R41), and beside them the model's own three fields: the
inputs still to come (assumption log 1), the value the last operation returned (log 7) and how many
unspecified bytes were drawn (log 6). Plain data; reset values of R49. -/

namespace Sys2Proof.Machine

/-- The edge of the clock line a decoder is armed for (R28). -/
inductive SclArm where
  | rise | fall
  deriving DecidableEq, Repr

/-- The monitoring mode of the data line (R29). -/
inductive SdaMon where
  | off | fall | both
  deriving DecidableEq, Repr

/-- The direction of the data pin (R30). -/
inductive SdaDir where
  | inp | out
  deriving DecidableEq, Repr

/-- The bus context (R21). -/
@[ext]
structure BusCtx where
  state : BusState
  bitcnt : BitVec 4
  addr : Byte
  data : Byte
  last : Bool
  maddr : Byte
  maddrValid : Bool
  sclArm : SclArm
  sdaMon : SdaMon
  sdaDir : SdaDir
  sdaDrv : Bool
  deriving DecidableEq, Repr

/-- The five values of `dev[d].dstate` (R33). -/
inductive DevState where
  | idle | single | blockCount | blockRw | invalid
  deriving DecidableEq, Repr

/-- The device context (R32). `slot_base` is a constant of the device, `slot0`. -/
@[ext]
structure DevCtx where
  dstate : DevState
  reg : RegAddr
  cnt : Byte
  stage : Byte
  rdcnt : Byte
  deriving DecidableEq, Repr

/-- The shared telemetry state `T` (R40, R41). -/
@[ext]
structure Telemetry where
  enabled : Vector Bool 14
  requestedTach : Vector Tach 14
  actualTach : Vector Tach 14
  startRequested : Bool
  rpmUpdateRequested : Bool
  deriving DecidableEq, Repr

/-- One input of the block (R6, R70): an event of a bus (R120), a call, encoded as Decode.lean lays
out (the main-loop port's calls, R47, and the layer calls of assumption log 2), or reset (R280). -/
inductive Input where
  | event (b : BusId) (line : Line) (scl sda : Bool)
  | call (frame : List Byte)
  | reset
  deriving DecidableEq, Repr

/-- What an operation that returns a value returned (assumption log 7). -/
inductive Answer where
  | none
  | byte (x : Byte)
  | reply (x : Byte) (isLast : Bool)
  | word (x : Tach)
  | flag (x : Bool)
  deriving DecidableEq, Repr

/-- The machine: R20's three groups, and the model's own `inputs`, `answer` and `draws`. -/
@[ext]
structure State where
  bus : Vector BusCtx 2
  dev : Vector DevCtx 8
  tel : Telemetry
  inputs : List Input
  answer : Answer
  draws : Vector Nat 2
  deriving DecidableEq, Repr

/-- No operation of the block raises an exception or stops it (R250, R102): there is no fault. -/
inductive Fault where
  deriving DecidableEq, Repr

/-- Why an input has no operation. -/
inductive Refusal where
  /-- Raised by exec for an operation without a meaning; none is left. Safe: the machine stops. -/
  | notModelled (mnemonic : String)
  /-- Raised by step for a call whose bytes are no frame of an operation (assumption log 3). Safe: no
  agent of the block makes such a call. -/
  | notAFrame (e : DecodeError)
  deriving DecidableEq, Repr

/-- Reset values of a bus context (R49). -/
def BusCtx.reset : BusCtx where
  state := .idle
  bitcnt := 0
  addr := 0x00
  data := 0x00
  last := false
  maddr := 0x00
  maddrValid := false
  sclArm := .rise
  sdaMon := .fall
  sdaDir := .inp
  sdaDrv := false

/-- Reset values of a device context (R49). -/
def DevCtx.reset : DevCtx where
  dstate := .idle
  reg := 0x00
  cnt := 0x00
  stage := 0x00
  rdcnt := 0x00

/-- Reset values of the telemetry state (R49). -/
def Telemetry.reset : Telemetry where
  enabled := Vector.replicate 14 false
  requestedTach := Vector.replicate 14 0x0000
  actualTach := Vector.replicate 14 0x0000
  startRequested := false
  rpmUpdateRequested := false

/-- The machine right after reset (R49), with no input to come, nothing returned and nothing drawn. -/
def State.reset : State where
  bus := Vector.replicate 2 BusCtx.reset
  dev := Vector.replicate 8 DevCtx.reset
  tel := Telemetry.reset
  inputs := []
  answer := .none
  draws := Vector.replicate 2 0

end Sys2Proof.Machine
end

