-- ==== Sys2Proof/Machine/Flags.lean ====
section
/-! DEFINITION. Every one-bit computation of the block (spec/10_state.md R44; there are no condition
codes): the level guard, the end of a byte, the enable pair, the privilege test, test-and-clear. -/

namespace Sys2Proof.Machine

/-- The clock level a decoder is armed for: 1 if `RISE`, else 0 (R125). -/
def armedLevel : SclArm → Bool
  | .rise => true
  | .fall => false

/-- The arming that lets a clock level pass the guard (R125). -/
def armFor : Bool → SclArm
  | true => .rise
  | false => .fall

/-- Whether a data-line event is delivered: `sda_mon != OFF` (R120). -/
def monitored : SdaMon → Bool
  | .off => false
  | .fall => true
  | .both => true

/-- The bit counter after one more bit, modulo 16 (R23, R8). -/
def nextBit (n : BitVec 4) : BitVec 4 := n + 1

/-- "if B.bitcnt = 8": the byte is complete (R23). -/
def byteDone (n : BitVec 4) : Bool := n == 8

/-- `v[6]`, the enable flag of the first slot (R217, D18). -/
def enable0 (v : Byte) : Bool := v.getLsbD 6

/-- `v[7]`, the enable flag of the second slot (R217, D18). -/
def enable1 (v : Byte) : Bool := v.getLsbD 7

/-- `d = PRIV_DEV`, "the whole of the privilege mechanism" (R230). -/
def privileged (d : DevId) : Bool := d == Config.privDev

end Sys2Proof.Machine
end

