-- ==== Sys2Proof/Machine/Ops.lean ====
section
/-! DEFINITION. The named operations over the state that every meaning is written with: one access
to each kind of state, the silent drop of an anomaly, the draw of an unspecified byte, the answer of
an operation, and reset. The block takes no exception (spec/60_exceptions.md R250): there is no entry
and no return to share. -/

namespace Sys2Proof.Machine

/-- The outcome type of the machine. -/
abbrev Outcome := Host.Outcome State Fault Refusal

/-- `bus[b]`. -/
def State.busAt (s : State) (b : BusId) : BusCtx := s.bus[b]

/-- `dev[d]`. -/
def State.devAt (s : State) (d : DevId) : DevCtx := s.dev[d]

/-- `T.enabled[i]`. -/
def State.enabledAt (s : State) (i : SlotId) : Bool := s.tel.enabled[i]

/-- `T.requestedTach[i]`. -/
def State.requestedAt (s : State) (i : SlotId) : Tach := s.tel.requestedTach[i]

/-- `T.actualTach[i]`. -/
def State.actualAt (s : State) (i : SlotId) : Tach := s.tel.actualTach[i]

/-- How many unspecified bytes were drawn for the devices of bus `b` (assumption log 6). -/
def State.drawsAt (s : State) (b : BusId) : Nat := s.draws[b]

/-- Replace `bus[b]` by its image. -/
def State.modBus (s : State) (b : BusId) (f : BusCtx → BusCtx) : State :=
  { s with bus := s.bus.set b (f (s.busAt b)) }

/-- Replace `dev[d]` by its image. -/
def State.modDev (s : State) (d : DevId) (f : DevCtx → DevCtx) : State :=
  { s with dev := s.dev.set d (f (s.devAt d)) }

/-- `T.enabled[i] <- v`, if slot `i` exists (R217, R229). -/
def State.writeEnabled (s : State) (i : Nat) (v : Bool) : State :=
  if h : i < Config.nslot then { s with tel := { s.tel with enabled := s.tel.enabled.set i v h } } else s

/-- `T.requestedTach[i] <- x`, if slot `i` exists (R219, R221, R229). -/
def State.writeRequested (s : State) (i : Nat) (x : Tach) : State :=
  if h : i < Config.nslot then
    { s with tel := { s.tel with requestedTach := s.tel.requestedTach.set i x h } }
  else s

/-- `T.actualTach[i] <- x` (R234). -/
def State.writeActual (s : State) (i : SlotId) (x : Tach) : State :=
  { s with tel := { s.tel with actualTach := s.tel.actualTach.set i x } }

/-- One byte of `T.actualTach[i]`, or 0x00 if slot `i` does not exist (R224 to R227, R229). -/
def State.actualByte (s : State) (i : Nat) (part : Tach → Byte) : Byte :=
  if h : i < Config.nslot then part (s.actualAt ⟨i, h⟩) else 0x00

/-- `T.startRequested <- v` (R222, R235). -/
def State.setStart (s : State) (v : Bool) : State :=
  { s with tel := { s.tel with startRequested := v } }

/-- `T.rpmUpdateRequested <- v` (R221, R236). -/
def State.setRpm (s : State) (v : Bool) : State :=
  { s with tel := { s.tel with rpmUpdateRequested := v } }

/-- What an operation returned, kept for its caller (assumption log 7). -/
def State.answering (s : State) (a : Answer) : State := { s with answer := a }

/-- The anomaly classes (R251 to R255). No state holds them (R256). -/
inductive Anomaly where
  | desync             -- (a) a clock level that is not the armed one, R251
  | addressMismatch    -- (b) R252
  | indexOutOfRange    -- (c) R253
  | unexpectedRead     -- (d) R254
  | writeWhileInvalid  -- (e)
  | noWriteMeaning     -- (f)
  | ignoredStart       -- (g)
  | notMonitored       -- (i)
  deriving DecidableEq, Repr

/-- `drop(class)`: "this step makes no further state change" (R9, R250). -/
def State.drop (s : State) (_ : Anomaly) : State := s

/-- `ANY8`: a fresh unspecified byte for a device of bus `b`, and the draw it counts (R228, R173). -/
def State.drawAny8 (s : State) (b : BusId) : Byte × State :=
  (Config.any8 b (s.drawsAt b), { s with draws := s.draws.set b (s.drawsAt b + 1) })

/-- Reset: "it sets every field of `bus[0..1]`, `dev[0..7]` and `T`" (R280). The inputs still to come,
the answer and the draws are not the block's and stay (assumption log 13). -/
def State.resetBlock (s : State) : State :=
  { s with bus := State.reset.bus, dev := State.reset.dev, tel := State.reset.tel }

end Sys2Proof.Machine
end

