-- ==== Sys2Proof/Machine/RegisterFile.lean ====
section
/-! DEFINITION. The register file (spec/43_register_file.md R215 to R231): one operation per register
and direction, their dispatch `MemWrite`, `MemRead`, and the meanings of the REG7W and REG7R rows. -/

namespace Sys2Proof.Machine

/-- R216: `D.rdcnt <- v`. -/
def rfWriteRdcnt (d : DevId) (v : Byte) (s : State) : State :=
  s.modDev d fun D => { D with rdcnt := v }

/-- R217: both enable flags of the device, from bits 6 and 7. -/
def rfWriteEnable (d : DevId) (v : Byte) (s : State) : State :=
  (s.writeEnabled (slot0 d) (enable0 v)).writeEnabled (slot1 d) (enable1 v)

/-- R218: `D.stage <- v`. -/
def rfWriteReq0Lo (d : DevId) (v : Byte) (s : State) : State :=
  s.modDev d fun D => { D with stage := v }

/-- R219: commit the first slot's requested tach. -/
def rfWriteReq0Hi (d : DevId) (v : Byte) (s : State) : State :=
  s.writeRequested (slot0 d) (combine16 v (s.devAt d).stage)

/-- R220: `D.stage <- v`, the same staging byte. -/
def rfWriteReq1Lo (d : DevId) (v : Byte) (s : State) : State :=
  s.modDev d fun D => { D with stage := v }

/-- R221: commit the second slot's requested tach; on `PRIV_DEV` set `rpmUpdateRequested`. -/
def rfWriteReq1Hi (d : DevId) (v : Byte) (s : State) : State :=
  if privileged d then (s.writeRequested (slot1 d) (combine16 v (s.devAt d).stage)).setRpm true
  else s.writeRequested (slot1 d) (combine16 v (s.devAt d).stage)

/-- R222: on `PRIV_DEV` set `startRequested`; the value is not examined. -/
def rfWriteStartTrig (d : DevId) (_v : Byte) (s : State) : State :=
  if privileged d then s.setStart true else s

/-- R223: no state change. -/
def rfWriteNone (_d : DevId) (_r : RegAddr) (_v : Byte) (s : State) : State := s.drop .noWriteMeaning

/-- `MemWrite(d:r, 1, v)` (R215): exactly one of R216 to R223, by the value of `r`. -/
def rfWrite (d : DevId) (r : RegAddr) (v : Byte) (s : State) : State :=
  if r = 0x00#7 then rfWriteRdcnt d v s
  else if r = 0x07#7 then rfWriteEnable d v s
  else if r = 0x2A#7 then rfWriteReq0Lo d v s
  else if r = 0x2B#7 then rfWriteReq0Hi d v s
  else if r = 0x2C#7 then rfWriteReq1Lo d v s
  else if r = 0x2D#7 then rfWriteReq1Hi d v s
  else if r = 0x3C#7 then rfWriteStartTrig d v s
  else rfWriteNone d r v s

/-- R224. -/
def rfReadAct0Lo (d : DevId) (s : State) : Byte := s.actualByte (slot0 d) lowByte

/-- R225. -/
def rfReadAct0Hi (d : DevId) (s : State) : Byte := s.actualByte (slot0 d) highByte

/-- R226. -/
def rfReadAct1Lo (d : DevId) (s : State) : Byte := s.actualByte (slot1 d) lowByte

/-- R227. -/
def rfReadAct1Hi (d : DevId) (s : State) : Byte := s.actualByte (slot1 d) highByte

/-- R228: `ANY8`, a fresh draw. -/
def rfReadNone (d : DevId) (_r : RegAddr) (s : State) : Byte × State := s.drawAny8 (busOf d)

/-- `MemRead(d:r, 1)` (R215): exactly one of R224 to R228. Only the draw of R228 leaves a trace, and
that in the model's own counter. -/
def rfRead (d : DevId) (r : RegAddr) (s : State) : Byte × State :=
  if r = 0x4A#7 then (rfReadAct0Lo d s, s)
  else if r = 0x4B#7 then (rfReadAct0Hi d s, s)
  else if r = 0x4C#7 then (rfReadAct1Lo d s, s)
  else if r = 0x4D#7 then (rfReadAct1Hi d s, s)
  else rfReadNone d r s

/-! ## Meanings -/

/-- RF.W.RDCNT (R216). -/
def execRfWRdcnt (d : DevId) (v : Byte) (s : State) : Outcome := .next (rfWriteRdcnt d v s)

/-- RF.W.ENABLE (R217). -/
def execRfWEnable (d : DevId) (v : Byte) (s : State) : Outcome := .next (rfWriteEnable d v s)

/-- RF.W.REQ0_LO (R218). -/
def execRfWReq0Lo (d : DevId) (v : Byte) (s : State) : Outcome := .next (rfWriteReq0Lo d v s)

/-- RF.W.REQ0_HI (R219). -/
def execRfWReq0Hi (d : DevId) (v : Byte) (s : State) : Outcome := .next (rfWriteReq0Hi d v s)

/-- RF.W.REQ1_LO (R220). -/
def execRfWReq1Lo (d : DevId) (v : Byte) (s : State) : Outcome := .next (rfWriteReq1Lo d v s)

/-- RF.W.REQ1_HI (R221). -/
def execRfWReq1Hi (d : DevId) (v : Byte) (s : State) : Outcome := .next (rfWriteReq1Hi d v s)

/-- RF.W.START_TRIG (R222). -/
def execRfWStartTrig (d : DevId) (v : Byte) (s : State) : Outcome := .next (rfWriteStartTrig d v s)

/-- RF.W.NONE (R223). -/
def execRfWNone (d : DevId) (r : RegAddr) (v : Byte) (s : State) : Outcome :=
  .next (rfWriteNone d r v s)

/-- RF.R.ACT0_LO (R224). -/
def execRfRAct0Lo (d : DevId) (s : State) : Outcome := .next (s.answering (.byte (rfReadAct0Lo d s)))

/-- RF.R.ACT0_HI (R225). -/
def execRfRAct0Hi (d : DevId) (s : State) : Outcome := .next (s.answering (.byte (rfReadAct0Hi d s)))

/-- RF.R.ACT1_LO (R226). -/
def execRfRAct1Lo (d : DevId) (s : State) : Outcome := .next (s.answering (.byte (rfReadAct1Lo d s)))

/-- RF.R.ACT1_HI (R227). -/
def execRfRAct1Hi (d : DevId) (s : State) : Outcome := .next (s.answering (.byte (rfReadAct1Hi d s)))

/-- RF.R.NONE (R228). -/
def execRfRNone (d : DevId) (r : RegAddr) (s : State) : Outcome :=
  .next ((rfReadNone d r s).2.answering (.byte (rfReadNone d r s).1))

end Sys2Proof.Machine
end

