-- ==== Sys2Proof/Machine/DeviceFsm.lean ====
section
/-! DEFINITION. The device register state machine (spec/42_device_fsm.md R185 to R198): eleven
operations, the three entry points `devWrite`, `devRead`, `devStop`, and the meanings of the DEVOP
and CMD8 rows. -/

namespace Sys2Proof.Machine

/-- What a device answers a requested byte with: the byte and the mark `isLast` (R140). -/
structure Reply where
  byte : Byte
  isLast : Bool
  deriving DecidableEq, Repr

/-- R186: the command byte selects the register and the mode. -/
def dwIdleOp (d : DevId) (v : Byte) (s : State) : State :=
  s.modDev d fun D => { D with reg := cmdReg v, dstate := if cmdBlk v then .blockCount else .single }

/-- R187: the value byte of a single write. -/
def dwSingleOp (d : DevId) (v : Byte) (s : State) : State :=
  (rfWrite d (s.devAt d).reg v s).modDev d fun D => { D with dstate := .invalid }

/-- R188: the count byte of a block write; 0 ends the block at once. -/
def dwBlockCountOp (d : DevId) (v : Byte) (s : State) : State :=
  s.modDev d fun D => { D with cnt := v, dstate := if v = 0 then .invalid else .blockRw }

/-- One byte of a block transfer is done: `reg` counts up modulo 128, `cnt` down modulo 256, and the
device becomes `INVALID` when `cnt` reaches 0 (R189, R194, R197). -/
def blockAdvance (D : DevCtx) : DevCtx :=
  { D with reg := D.reg + 1, cnt := D.cnt - 1, dstate := if D.cnt - 1 = 0 then .invalid else D.dstate }

/-- R189: a data byte of a block write. -/
def dwBlockRwOp (d : DevId) (v : Byte) (s : State) : State :=
  (rfWrite d (s.devAt d).reg v s).modDev d blockAdvance

/-- R190: no state change. -/
def dwInvalidOp (_d : DevId) (_v : Byte) (s : State) : State := s.drop .writeWhileInvalid

/-- R191: the placeholder (0x00, last). -/
def drIdleOp (_d : DevId) (s : State) : Reply × State := (⟨0x00, true⟩, s.drop .unexpectedRead)

/-- R192: the addressed register's value, marked last. -/
def drSingleOp (d : DevId) (s : State) : Reply × State :=
  (⟨(rfRead d (s.devAt d).reg s).1, true⟩,
    (rfRead d (s.devAt d).reg s).2.modDev d fun D => { D with dstate := .invalid })

/-- R193: the read-count itself; 0 is marked last and ends the block. -/
def drBlockCountOp (d : DevId) (s : State) : Reply × State :=
  (⟨(s.devAt d).rdcnt, (s.devAt d).rdcnt == 0⟩,
    s.modDev d fun D => { D with cnt := D.rdcnt, dstate := if D.rdcnt = 0 then .invalid else .blockRw })

/-- R194: a data byte of a block read, marked last when the count reaches 0. -/
def drBlockRwOp (d : DevId) (s : State) : Reply × State :=
  (⟨(rfRead d (s.devAt d).reg s).1, (s.devAt d).cnt - 1 == 0⟩,
    (rfRead d (s.devAt d).reg s).2.modDev d blockAdvance)

/-- R195: the placeholder (0x00, last). -/
def drInvalidOp (_d : DevId) (s : State) : Reply × State := (⟨0x00, true⟩, s.drop .unexpectedRead)

/-- R196: back to `IDLE`; every other field keeps its value. -/
def devStop (d : DevId) (s : State) : State := s.modDev d fun D => { D with dstate := .idle }

/-- `devWrite(d, v)`: one of R186 to R190, by `dstate`. -/
def devWrite (d : DevId) (v : Byte) (s : State) : State :=
  match (s.devAt d).dstate with
  | .idle => dwIdleOp d v s
  | .single => dwSingleOp d v s
  | .blockCount => dwBlockCountOp d v s
  | .blockRw => dwBlockRwOp d v s
  | .invalid => dwInvalidOp d v s

/-- `devRead(d) -> (byte, isLast)`: one of R191 to R195, by `dstate`. -/
def devRead (d : DevId) (s : State) : Reply × State :=
  match (s.devAt d).dstate with
  | .idle => drIdleOp d s
  | .single => drSingleOp d s
  | .blockCount => drBlockCountOp d s
  | .blockRw => drBlockRwOp d s
  | .invalid => drInvalidOp d s

/-- A reply handed to the caller of an operation run on its own (assumption log 7). -/
def replyTo (x : Reply × State) : State := x.2.answering (.reply x.1.byte x.1.isLast)

/-! ## Meanings -/

/-- CMD.SINGLE: the command byte with `blk` = 0 (R92, R186; assumption log 9). -/
def execCmdSingle (d : DevId) (r : RegAddr) (s : State) : Outcome :=
  .next (dwIdleOp d (cmdByte false r) s)

/-- CMD.BLOCK: the command byte with `blk` = 1 (R92, R186; assumption log 9). -/
def execCmdBlock (d : DevId) (r : RegAddr) (s : State) : Outcome :=
  .next (dwIdleOp d (cmdByte true r) s)

/-- DW.IDLE (R186). -/
def execDwIdle (d : DevId) (v : Byte) (s : State) : Outcome := .next (dwIdleOp d v s)

/-- DW.SINGLE (R187). -/
def execDwSingle (d : DevId) (v : Byte) (s : State) : Outcome := .next (dwSingleOp d v s)

/-- DW.BLOCK_COUNT (R188). -/
def execDwBlockCount (d : DevId) (v : Byte) (s : State) : Outcome := .next (dwBlockCountOp d v s)

/-- DW.BLOCK_RW (R189). -/
def execDwBlockRw (d : DevId) (v : Byte) (s : State) : Outcome := .next (dwBlockRwOp d v s)

/-- DW.INVALID (R190). -/
def execDwInvalid (d : DevId) (v : Byte) (s : State) : Outcome := .next (dwInvalidOp d v s)

/-- DR.IDLE (R191). -/
def execDrIdle (d : DevId) (s : State) : Outcome := .next (replyTo (drIdleOp d s))

/-- DR.SINGLE (R192). -/
def execDrSingle (d : DevId) (s : State) : Outcome := .next (replyTo (drSingleOp d s))

/-- DR.BLOCK_COUNT (R193). -/
def execDrBlockCount (d : DevId) (s : State) : Outcome := .next (replyTo (drBlockCountOp d s))

/-- DR.BLOCK_RW (R194). -/
def execDrBlockRw (d : DevId) (s : State) : Outcome := .next (replyTo (drBlockRwOp d s))

/-- DR.INVALID (R195). -/
def execDrInvalid (d : DevId) (s : State) : Outcome := .next (replyTo (drInvalidOp d s))

/-- DSTOP (R196). -/
def execDstop (d : DevId) (s : State) : Outcome := .next (devStop d s)

end Sys2Proof.Machine
end

