-- ==== Sys2Proof/Machine/Router.lean ====
section
/-! DEFINITION. The device address router (spec/41_address_router.md R170 to R176): the routing
function and the three operations through which a decoder step reaches a device (R140). No state. -/

namespace Sys2Proof.Machine

/-- Where an address byte leads (R170). -/
inductive Route where
  | dev (d : DevId)
  | aux
  | none
  deriving DecidableEq, Repr

/-- `deviceIndex = busId*4 + (3 - offset)`, `offset = a7 - DEV_BASE`, on unbounded integers (R98, R170). -/
def deviceIndex (b : BusId) (a7 : DevAddr) : Int :=
  4 * (b.val : Int) + (3 - ((a7.toNat : Int) - (Config.devBase.toNat : Int)))

/-- `route(b, addr8)` (R170): `AUX_ADDR` is tested first, then the index against [0,7]. -/
def route (b : BusId) (a : Byte) : Route :=
  if addr7 a = Config.auxAddr then .aux
  else if h : 0 ≤ deviceIndex b (addr7 a) ∧ deviceIndex b (addr7 a) ≤ 7 then
    .dev ⟨(deviceIndex b (addr7 a)).toNat, by omega⟩
  else .none

/-- `onByteWritten(b, addr8, v)` (R172). -/
def onByteWritten (b : BusId) (a : Byte) (v : Byte) (s : State) : State :=
  match route b a with
  | .dev d => devWrite d v s
  | .aux => s
  | .none => s.drop .indexOutOfRange

/-- `onByteRequested(b, addr8) -> (byte, isLast)` (R173, R171). -/
def onByteRequested (b : BusId) (a : Byte) (s : State) : Reply × State :=
  match route b a with
  | .dev d => devRead d s
  | .aux => (⟨Config.auxSentinel, true⟩, s)
  | .none => (⟨(s.drawAny8 b).1, true⟩, (s.drawAny8 b).2)

/-- `onStop(b, addr8)` (R174). -/
def onStop (b : BusId) (a : Byte) (s : State) : State :=
  match route b a with
  | .dev d => devStop d s
  | .aux => s
  | .none => s.drop .indexOutOfRange

end Sys2Proof.Machine
end

