-- ==== Sys2Proof/Machine/BusDecoder.lean ====
section
/-! DEFINITION. The bit-level bus decoder (spec/40_bus_decoder.md R122 to R136): the meanings of the
DISP7 rows, and of the ADDR8 rows, which name what an address byte comes to (R127 to R129, R171). An
operation's meaning is its rule's pseudocode; which operation an event selects is Machine/Fetch.lean's
(assumption log 14). -/

namespace Sys2Proof.Machine

/-- R127, eighth bit, `MATCH` true: latch the address and go to the acknowledge. -/
def addressMatched (B : BusCtx) : BusCtx :=
  { B with maddr := B.addr, maddrValid := true, state := .addressAck, sclArm := .fall }

/-- R127, eighth bit, `MATCH` false: silent until a stop. -/
def addressMismatched (B : BusCtx) : BusCtx := { B with state := .waitStop }

/-- R127's branch on the complete address byte (R128). -/
def addressDone (B : BusCtx) : BusCtx :=
  if matchAddr (addr7 B.addr) then addressMatched B else addressMismatched B

/-- R127, first two lines: one address bit, most significant first. -/
def shiftAddrBit (sda : Bool) (B : BusCtx) : BusCtx :=
  { B with addr := shiftIn B.addr sda, bitcnt := nextBit B.bitcnt }

/-- R127: one address bit, and on the eighth the branch. -/
def addrShiftCtx (sda : Bool) (B : BusCtx) : BusCtx :=
  if byteDone (nextBit B.bitcnt) then addressDone (shiftAddrBit sda B) else shiftAddrBit sda B

/-- R129: drive the acknowledge; branch on the read/write bit. -/
def addrAckCtx (B : BusCtx) : BusCtx :=
  { B with sdaDir := .out, sdaDrv := false,
           state := if rwBit B.addr then .readPrepare else .writePrepare }

/-- R123: arm for the rising edge, clear the address accumulator and the bit counter. -/
def startCtx (B : BusCtx) : BusCtx :=
  { B with sclArm := .rise, addr := 0x00, bitcnt := 0, state := .address, sdaMon := .both }

/-- R131: drive the most significant unsent bit, shift the byte left. -/
def rdBitCtx (B : BusCtx) : BusCtx :=
  { B with sdaDrv := unsentBit B.data, data := shiftOut B.data, bitcnt := nextBit B.bitcnt,
           state := if byteDone (nextBit B.bitcnt) then .readAck else B.state }

/-- R130 before its last line: take the reply, switch the pin to output, stop monitoring. -/
def rdLoadCtx (r : Reply) (B : BusCtx) : BusCtx :=
  { B with data := r.byte, last := r.isLast, sdaDir := .out, sdaMon := .off, state := .read, bitcnt := 0 }

/-- R132: release the pin; a byte marked last turns monitoring on again and ends the read. -/
def rdAckCtx (B : BusCtx) : BusCtx :=
  if B.last then { B with sdaDir := .inp, sdaMon := .both, state := .waitStop }
  else { B with sdaDir := .inp, state := .readPrepare }

/-- R133: end the acknowledge, arm for the rising edge, clear the accumulator. -/
def wrPrepCtx (B : BusCtx) : BusCtx :=
  { B with sdaDir := .inp, sclArm := .rise, state := .write, bitcnt := 0, data := 0x00 }

/-- R134, first two lines: one data bit, most significant first. -/
def shiftDataBit (sda : Bool) (B : BusCtx) : BusCtx :=
  { B with data := shiftIn B.data sda, bitcnt := nextBit B.bitcnt }

/-- R134: one data bit; the eighth ends the byte. -/
def wrShiftCtx (sda : Bool) (B : BusCtx) : BusCtx :=
  if byteDone (nextBit B.bitcnt) then { shiftDataBit sda B with state := .writeAck, sclArm := .fall }
  else shiftDataBit sda B

/-- R122, second line: the bus-stopped operation "with the last matched address", if there is one. -/
def tellStop (b : BusId) (s : State) : State :=
  if (s.busAt b).maddrValid then onStop b (s.busAt b).maddr s else s

/-- R122: to `IDLE`, tell the device matched last, watch for the next start. -/
def stopOp (b : BusId) (s : State) : State :=
  (tellStop b (s.modBus b fun B => { B with state := .idle })).modBus b fun B => { B with sdaMon := .fall }

/-- R130 before its last line: fetch a byte from the device layer and load it. -/
def loadByte (b : BusId) (x : Reply × State) : State := x.2.modBus b (rdLoadCtx x.1)

/-- R130: fetch a byte, load it, and perform RD.BIT in the same step. -/
def rdPrepOp (b : BusId) (s : State) : State :=
  (loadByte b (onByteRequested b (s.busAt b).addr s)).modBus b rdBitCtx

/-- R135, second line: hand the byte to the device layer. -/
def deliverByte (b : BusId) (s : State) : State := onByteWritten b (s.busAt b).addr (s.busAt b).data s

/-- R135: drive the acknowledge, hand the byte over, ready for the next byte. -/
def wrAckOp (b : BusId) (s : State) : State :=
  (deliverByte b (s.modBus b fun B => { B with sdaDir := .out, sdaDrv := false })).modBus b
    fun B => { B with state := .writePrepare }

/-! ## Meanings of the DISP7 rows -/

/-- EV.STOP (R122). -/
def execEvStop (b : BusId) (s : State) : Outcome := .next (stopOp b s)

/-- EV.START in `IDLE` (R123). -/
def execEvStartIdle (b : BusId) (s : State) : Outcome := .next (s.modBus b startCtx)

/-- EV.START in `WRITE`, a repeated start (R123). -/
def execEvStartWrite (b : BusId) (s : State) : Outcome := .next (s.modBus b startCtx)

/-- EV.DAT.NOP, a start that is not accepted (R124). -/
def execEvDatNopScl1 (s : State) : Outcome := .next (s.drop .ignoredStart)

/-- EV.DAT.NOP, a data change while the clock is low (R124). -/
def execEvDatNopScl0 (s : State) : Outcome := .next s

/-- ADDR.SHIFT (R127). -/
def execAddrShift (b : BusId) (sda : Bool) (s : State) : Outcome := .next (s.modBus b (addrShiftCtx sda))

/-- ADDR.ACK (R129). -/
def execAddrAck (b : BusId) (s : State) : Outcome := .next (s.modBus b addrAckCtx)

/-- RD.PREP (R130). -/
def execRdPrep (b : BusId) (s : State) : Outcome := .next (rdPrepOp b s)

/-- RD.BIT (R131). -/
def execRdBit (b : BusId) (s : State) : Outcome := .next (s.modBus b rdBitCtx)

/-- RD.ACK (R132). -/
def execRdAck (b : BusId) (s : State) : Outcome := .next (s.modBus b rdAckCtx)

/-- WR.PREP (R133). -/
def execWrPrep (b : BusId) (s : State) : Outcome := .next (s.modBus b wrPrepCtx)

/-- WR.SHIFT (R134). -/
def execWrShift (b : BusId) (sda : Bool) (s : State) : Outcome := .next (s.modBus b (wrShiftCtx sda))

/-- WR.ACK (R135). -/
def execWrAck (b : BusId) (s : State) : Outcome := .next (wrAckOp b s)

/-- CLK.INERT in `IDLE` (R126). -/
def execClkInertIdle (s : State) : Outcome := .next s

/-- CLK.INERT in `WAIT_STOP` (R126, R136). -/
def execClkInertWaitStop (s : State) : Outcome := .next s

/-- CLK.GUARD, a clock level that is not the armed one (R125, R251). -/
def execClkGuard (s : State) : Outcome := .next (s.drop .desync)

/-! ## Meanings of the ADDR8 rows

A row of ADDR8 is an outcome of a whole address byte. Its meaning takes the byte as received (all
eight bits in `addr`, `bitcnt` = 8), R127's branch on it, and, where it matches, R129's acknowledge
(assumption log 8). -/

/-- The address byte as received, and R127's branch. -/
def addressReceived (a : Byte) (B : BusCtx) : BusCtx := addressDone { B with addr := a, bitcnt := 8 }

/-- ADDR.FAM.W: a family address, written to (R127 to R129). -/
def execAddrFamW (b : BusId) (oo : BitVec 2) (s : State) : Outcome :=
  .next (s.modBus b fun B => addrAckCtx (addressReceived (famByte oo false) B))

/-- ADDR.FAM.R: a family address, read from (R127 to R129). -/
def execAddrFamR (b : BusId) (oo : BitVec 2) (s : State) : Outcome :=
  .next (s.modBus b fun B => addrAckCtx (addressReceived (famByte oo true) B))

/-- ADDR.AUX.W: the auxiliary address, written to (R171). -/
def execAddrAuxW (b : BusId) (s : State) : Outcome :=
  .next (s.modBus b fun B => addrAckCtx (addressReceived (addrByte Config.auxAddr false) B))

/-- ADDR.AUX.R: the auxiliary address, read from (R171). -/
def execAddrAuxR (b : BusId) (s : State) : Outcome :=
  .next (s.modBus b fun B => addrAckCtx (addressReceived (addrByte Config.auxAddr true) B))

/-- ADDR.NOMATCH: not acknowledged, silent until a stop (R127, R252). -/
def execAddrNoMatch (b : BusId) (a : Byte) (s : State) : Outcome :=
  .next ((s.modBus b (addressReceived a)).drop .addressMismatch)

end Sys2Proof.Machine
end

