-- ==== Sys2Proof/Machine/MainLoopPort.lean ====
section
/-! DEFINITION. The main-loop port (spec/43_register_file.md R232 to R236): five atomic operations on
the telemetry state; the port cannot reach `bus[b]` or `dev[d]` (R47). -/

namespace Sys2Proof.Machine

/-- HOST.RD_REQ (R232). -/
def execHostRdReq (i : SlotId) (s : State) : Outcome := .next (s.answering (.word (s.requestedAt i)))

/-- HOST.RD_EN (R233). -/
def execHostRdEn (i : SlotId) (s : State) : Outcome := .next (s.answering (.flag (s.enabledAt i)))

/-- HOST.WR_ACT (R234). -/
def execHostWrAct (i : SlotId) (x : Tach) (s : State) : Outcome := .next (s.writeActual i x)

/-- HOST.TAC_START (R235): return the flag and clear it, as one step. -/
def execHostTacStart (s : State) : Outcome :=
  .next ((s.setStart false).answering (.flag s.tel.startRequested))

/-- HOST.TAC_RPM (R236): return the flag and clear it, as one step. -/
def execHostTacRpm (s : State) : Outcome :=
  .next ((s.setRpm false).answering (.flag s.tel.rpmUpdateRequested))

end Sys2Proof.Machine
end

