-- ==== Sys2Proof/Machine/Dispatch.lean ====
section
/-! DEFINITION. The one dispatch from an operation to its meaning. -/

namespace Sys2Proof.Machine

def exec (i : Instr) (s : State) : Host.Outcome State Fault Refusal :=
  match i with
  | .evStop b _ => Sys2Proof.Machine.execEvStop b s
  | .evStartIdle b => Sys2Proof.Machine.execEvStartIdle b s
  | .evStartWrite b => Sys2Proof.Machine.execEvStartWrite b s
  | .evDatNopScl1 _ _ => Sys2Proof.Machine.execEvDatNopScl1 s
  | .evDatNopScl0 _ _ _ => Sys2Proof.Machine.execEvDatNopScl0 s
  | .addrShift b sda => Sys2Proof.Machine.execAddrShift b sda s
  | .addrAck b _ => Sys2Proof.Machine.execAddrAck b s
  | .rdPrep b _ => Sys2Proof.Machine.execRdPrep b s
  | .rdBit b _ => Sys2Proof.Machine.execRdBit b s
  | .rdAck b _ => Sys2Proof.Machine.execRdAck b s
  | .wrPrep b _ => Sys2Proof.Machine.execWrPrep b s
  | .wrShift b sda => Sys2Proof.Machine.execWrShift b sda s
  | .wrAck b _ => Sys2Proof.Machine.execWrAck b s
  | .clkInertIdle _ _ _ => Sys2Proof.Machine.execClkInertIdle s
  | .clkInertWaitStop _ _ _ => Sys2Proof.Machine.execClkInertWaitStop s
  | .clkGuard _ _ _ _ => Sys2Proof.Machine.execClkGuard s
  | .addrFamW b oo => Sys2Proof.Machine.execAddrFamW b oo s
  | .addrFamR b oo => Sys2Proof.Machine.execAddrFamR b oo s
  | .addrAuxW b => Sys2Proof.Machine.execAddrAuxW b s
  | .addrAuxR b => Sys2Proof.Machine.execAddrAuxR b s
  | .addrNoMatch b a => Sys2Proof.Machine.execAddrNoMatch b a s
  | .cmdSingle d r => Sys2Proof.Machine.execCmdSingle d r s
  | .cmdBlock d r => Sys2Proof.Machine.execCmdBlock d r s
  | .rfWRdcnt d v => Sys2Proof.Machine.execRfWRdcnt d v s
  | .rfWEnable d v => Sys2Proof.Machine.execRfWEnable d v s
  | .rfWReq0Lo d v => Sys2Proof.Machine.execRfWReq0Lo d v s
  | .rfWReq0Hi d v => Sys2Proof.Machine.execRfWReq0Hi d v s
  | .rfWReq1Lo d v => Sys2Proof.Machine.execRfWReq1Lo d v s
  | .rfWReq1Hi d v => Sys2Proof.Machine.execRfWReq1Hi d v s
  | .rfWStartTrig d v => Sys2Proof.Machine.execRfWStartTrig d v s
  | .rfWNone d r v => Sys2Proof.Machine.execRfWNone d r v s
  | .rfRAct0Lo d => Sys2Proof.Machine.execRfRAct0Lo d s
  | .rfRAct0Hi d => Sys2Proof.Machine.execRfRAct0Hi d s
  | .rfRAct1Lo d => Sys2Proof.Machine.execRfRAct1Lo d s
  | .rfRAct1Hi d => Sys2Proof.Machine.execRfRAct1Hi d s
  | .rfRNone d r => Sys2Proof.Machine.execRfRNone d r s
  | .dwIdle d v => Sys2Proof.Machine.execDwIdle d v s
  | .dwSingle d v => Sys2Proof.Machine.execDwSingle d v s
  | .dwBlockCount d v => Sys2Proof.Machine.execDwBlockCount d v s
  | .dwBlockRw d v => Sys2Proof.Machine.execDwBlockRw d v s
  | .dwInvalid d v => Sys2Proof.Machine.execDwInvalid d v s
  | .drIdle d => Sys2Proof.Machine.execDrIdle d s
  | .drSingle d => Sys2Proof.Machine.execDrSingle d s
  | .drBlockCount d => Sys2Proof.Machine.execDrBlockCount d s
  | .drBlockRw d => Sys2Proof.Machine.execDrBlockRw d s
  | .drInvalid d => Sys2Proof.Machine.execDrInvalid d s
  | .dstop d => Sys2Proof.Machine.execDstop d s
  | .hostRdReq k => Sys2Proof.Machine.execHostRdReq k s
  | .hostRdEn k => Sys2Proof.Machine.execHostRdEn k s
  | .hostWrAct k x => Sys2Proof.Machine.execHostWrAct k x s
  | .hostTacStart => Sys2Proof.Machine.execHostTacStart s
  | .hostTacRpm => Sys2Proof.Machine.execHostTacRpm s

end Sys2Proof.Machine
end

