-- ==== Sys2Proof/Machine/Fetch.lean ====
section
/-! DEFINITION. How an input of the block selects and runs its operation: delivery of events
(spec/40_bus_decoder.md R120), the level guard (R125) and the selection by state (R122 to R135), calls
(assumption logs 2 and 3) and reset (R280); and how a bare word of the operation table is put where
the next step takes its operation from (assumption log 4). -/

namespace Sys2Proof.Machine

/-- The operation an event of bus `b` selects, none if the event is not delivered (R120). A clock
event is compared with the armed level before anything else (R125). -/
def select (b : BusId) (B : BusCtx) (line : Line) (scl sda : Bool) : Option Instr :=
  match line with
  | .clock =>
    if scl = armedLevel B.sclArm then some (clockOp b B.state scl sda)
    else some (.clkGuard b B.state scl sda)
  | .data => if monitored B.sdaMon then some (dataOp b B.state scl sda) else none

/-- The handling of one event, one atomic step (R121). An event that is not delivered is lost (R120). -/
def runEvent (b : BusId) (line : Line) (scl sda : Bool) (s : State) : Outcome :=
  match select b (s.busAt b) line scl sda with
  | some i => exec i s
  | none => .next (s.drop .notMonitored)

/-- A call runs the operation its bytes encode. -/
def runCall (frame : List Byte) (s : State) : Outcome :=
  match decode frame with
  | .ok i => exec i s
  | .bad e => .refused (.notAFrame e)

/-- One input is one atomic step (R6, R70). -/
def runInput (x : Input) (s : State) : Outcome :=
  match x with
  | .event b line scl sda => runEvent b line scl sda s
  | .call frame => runCall frame s
  | .reset => .next s.resetBlock

/-- Bus 0 made ready for an event that gives this dispatch word, and the event first to come: the
state the word names, the arming under which the clock row it decodes to is selected, and monitoring
on for a data-line event (assumption log 4). -/
def State.placeDispatch (s : State) (st : BusState) (line : Line) (scl sda : Bool) : State :=
  let guarded := clockColumn st == some (!scl)
  let arm (B : BusCtx) : BusCtx :=
    match line with
    | .clock => { B with state := st, sclArm := armFor (scl != guarded) }
    | .data => { B with state := st, sdaMon := if monitored B.sdaMon then B.sdaMon else .both }
  { s.modBus 0 arm with inputs := .event 0 line scl sda :: s.inputs }

/-- A bare word of the operation table put where the next step takes its operation from: a dispatch
word as an event of bus 0, any other word as a call. -/
def State.placeTableWord (s : State) (w : Nat) : State :=
  match tableFrame w with
  | [f, b, x] =>
    match stateOfCode (x.extractLsb' 3 4) with
    | some st =>
      if f = 0 then
        s.placeDispatch st (if x.getLsbD 2 then .data else .clock) (x.getLsbD 1) (x.getLsbD 0)
      else { s with inputs := .call [f, b, x] :: s.inputs }
    | none => { s with inputs := .call [f, b, x] :: s.inputs }
  | frame => { s with inputs := .call frame :: s.inputs }

end Sys2Proof.Machine
end

