-- ==== Sys2Proof/Machine/Pins.lean ====
section
/-! DEFINITION. The pin contract (spec/40_bus_decoder.md R137 to R139), the ports (spec/10_state.md R46)
and the waveforms of a well-formed master (spec/30_encoding.md R104). The wires belong to the
environment, not to the block (assumption log 12): this file says which events an ideal edge detector
delivers when a master's outputs change, and runs them. -/

namespace Sys2Proof.Machine

/-- Output port `sda_oe[b]` (R46). -/
def sdaOe (B : BusCtx) : Bool := B.sdaDir == .out

/-- Output port `sda_o[b]` (R46). -/
def sdaO (B : BusCtx) : Bool := B.sdaDrv

/-- The block pulls the data wire low (R30, R138). -/
def pullsLow (B : BusCtx) : Bool := sdaOe B && !sdaO B

/-- What the master of one bus drives: true releases a wire, false pulls it low (R138). -/
structure Wires where
  scl : Bool
  sda : Bool
  deriving DecidableEq, Repr

/-- A change of one of the master's outputs (R104). -/
inductive Change where
  | scl (level : Bool)
  | sda (level : Bool)
  deriving DecidableEq, Repr

/-- The level of the data wire: the AND of the two sides (R138). -/
def sdaWire (m : Wires) (B : BusCtx) : Bool := m.sda && !pullsLow B

/-- The level of the clock wire: the master's alone; "The block never drives the clock wire" (R139). -/
def sclWire (m : Wires) : Bool := m.scl

/-- The ideal edge detector on the clock wire: whether an edge to this level is delivered (R137). -/
def clockEdge (B : BusCtx) (level : Bool) : Bool := level == armedLevel B.sclArm

/-- The ideal edge detector on the data wire: whether an edge to this level is delivered (R137). -/
def dataEdge (B : BusCtx) (level : Bool) : Bool :=
  match B.sdaMon with
  | .off => false
  | .fall => !level
  | .both => true

/-- The block with the two masters' outputs, and the events delivered so far, the latest last. -/
structure PinState where
  wires : Vector Wires 2
  block : State
  trace : List Input
  deriving DecidableEq, Repr

/-- Deliver one event of a bus to the block, as a step of its own (R137: "the event is handled before the
next edge occurs"). -/
def PinState.deliver (p : PinState) (b : BusId) (line : Line) (scl sda : Bool) :
    Host.Outcome PinState Fault Refusal :=
  match runEvent b line scl sda p.block with
  | .next s => .next { p with block := s, trace := p.trace ++ [.event b line scl sda] }
  | .fault r => .fault r
  | .refused r => .refused r

/-- The data wire of bus `b`, seen at level `before`, now has its level by R138: if that is an edge the
detector reports, deliver it. -/
def PinState.settleData (p : PinState) (b : BusId) (before : Bool) : Host.Outcome PinState Fault Refusal :=
  let level := sdaWire p.wires[b] (p.block.busAt b)
  if level != before && dataEdge (p.block.busAt b) level then
    p.deliver b .data (sclWire p.wires[b]) level
  else .next p

/-- The master of bus `b` changes an output: the edge it makes, then the edge of the data wire that
handling it makes ("that change is itself an edge of `SDAw`", R137). -/
def PinState.drive (p : PinState) (b : BusId) (c : Change) : Host.Outcome PinState Fault Refusal :=
  let m := p.wires[b]
  let before := sdaWire m (p.block.busAt b)
  match c with
  | .scl level =>
    let q := { p with wires := p.wires.set b { m with scl := level } }
    if level != sclWire m && clockEdge (p.block.busAt b) level then
      match q.deliver b .clock level before with
      | .next q => q.settleData b before
      | .fault r => .fault r
      | .refused r => .refused r
    else .next q
  | .sda level => { p with wires := p.wires.set b { m with sda := level } }.settleData b before

/-- Both buses idle, both wires of each released (R282), the block reset. -/
def PinState.reset : PinState where
  wires := Vector.replicate 2 ⟨true, true⟩
  block := State.reset
  trace := []

/-- A symbol of the transaction notation (R11): a byte sent by the master, a byte read by it and answered
with acknowledge or not, start, repeated start, stop. -/
inductive Symbol where
  | start
  | repeatedStart
  | send (x : Byte)
  | recv (ack : Bool)
  | stop
  deriving DecidableEq, Repr

/-- One bit placed while the clock is low, then clocked (R104). -/
def clockBit (v : Bool) : List Change := [.scl false, .sda v, .scl true]

/-- The bits of a byte, most significant first (R61). -/
def bitsOf (x : Byte) : List Bool :=
  [x.getLsbD 7, x.getLsbD 6, x.getLsbD 5, x.getLsbD 4, x.getLsbD 3, x.getLsbD 2, x.getLsbD 1, x.getLsbD 0]

/-- The changes a well-formed master makes for a symbol (R104). -/
def waveform : Symbol → List Change
  | .start => [.sda false]
  | .repeatedStart => [.scl false, .sda true, .scl true, .sda false]
  | .send x => (bitsOf x).flatMap clockBit ++ clockBit true
  | .recv ack => (List.replicate 8 true).flatMap clockBit ++ clockBit (!ack)
  | .stop => [.scl false, .sda false, .scl true, .sda true]

/-- A sequence of changes on one bus. -/
def PinState.driveAll (p : PinState) (b : BusId) : List Change → Host.Outcome PinState Fault Refusal
  | [] => .next p
  | c :: cs =>
    match p.drive b c with
    | .next q => q.driveAll b cs
    | .fault r => .fault r
    | .refused r => .refused r

end Sys2Proof.Machine
end

