-- ==== Sys2Proof/Safety.lean ====
section
/-! DEFINITION. The terms claims about XFSC-I2CS are stated in: which inputs the hardware has, what a
step leaves alone, the invariants of reachable states (spec/10_state.md R23, R48; spec/42_device_fsm.md
R189; spec/60_exceptions.md R253), and the two disjoint sides of the block (spec/20_memory.md R72). -/

namespace Sys2Proof

namespace Machine

/-- The inputs the hardware has (R6): events, port calls and reset; not a layer call (assumption log 2). -/
def Input.fromHardware : Input → Bool
  | .event _ _ _ _ => true
  | .reset => true
  | .call frame =>
    match decode frame with
    | .ok i => i.format == .port
    | .bad _ => false

/-! ## What a step leaves alone -/

/-- Nothing but `bus[b]` differs. -/
structure OnlyBus (b : BusId) (s t : State) : Prop where
  otherBus : ∀ b', b' ≠ b → t.busAt b' = s.busAt b'
  dev : t.dev = s.dev
  tel : t.tel = s.tel
  inputs : t.inputs = s.inputs
  answer : t.answer = s.answer
  draws : t.draws = s.draws

/-- Nothing but `dev[d]` differs. -/
structure OnlyDev (d : DevId) (s t : State) : Prop where
  bus : t.bus = s.bus
  otherDev : ∀ d', d' ≠ d → t.devAt d' = s.devAt d'
  tel : t.tel = s.tel
  inputs : t.inputs = s.inputs
  answer : t.answer = s.answer
  draws : t.draws = s.draws

/-- Nothing but the telemetry state differs. -/
structure OnlyTel (s t : State) : Prop where
  bus : t.bus = s.bus
  dev : t.dev = s.dev
  inputs : t.inputs = s.inputs
  answer : t.answer = s.answer
  draws : t.draws = s.draws

/-- Nothing but the answer differs. -/
structure OnlyAnswer (s t : State) : Prop where
  bus : t.bus = s.bus
  dev : t.dev = s.dev
  tel : t.tel = s.tel
  inputs : t.inputs = s.inputs
  draws : t.draws = s.draws

/-! ## Invariants of reachable states -/

/-- The table of R48: arming, pin and monitoring as functions of the decoder's state. -/
def BusCtx.pinsOk (B : BusCtx) : Bool :=
  match B.state with
  | .idle => B.sdaDir == .inp && B.sdaMon == .fall
  | .address => B.sclArm == .rise && B.sdaDir == .inp && B.sdaMon == .both
  | .addressAck => B.sclArm == .fall && B.sdaDir == .inp && B.sdaMon == .both
  | .writePrepare => B.sclArm == .fall && B.sdaDir == .out && !B.sdaDrv && B.sdaMon == .both
  | .write => B.sclArm == .rise && B.sdaDir == .inp && B.sdaMon == .both
  | .writeAck => B.sclArm == .fall && B.sdaDir == .inp && B.sdaMon == .both
  | .readPrepare =>
    B.sclArm == .fall &&
      ((B.sdaDir == .out && !B.sdaDrv && B.sdaMon == .both) || (B.sdaDir == .inp && B.sdaMon == .off))
  | .read => B.sclArm == .fall && B.sdaDir == .out && B.sdaMon == .off
  | .readAck => B.sclArm == .fall && B.sdaDir == .out && B.sdaMon == .off
  | .waitStop => B.sdaDir == .inp && B.sdaMon == .both

/-- The bit counter against the state: below 8 while bits are shifted, never above it (R23). -/
def BusCtx.countOk (B : BusCtx) : Bool :=
  match B.state with
  | .address | .read | .write => decide (B.bitcnt < 8#4)
  | _ => decide (B.bitcnt ≤ 8#4)

/-- The states between a match and the next start or stop, in which `addr` is the matched address. -/
def addressed : BusState → Bool
  | .idle | .address | .waitStop => false
  | .addressAck | .readPrepare | .read | .readAck | .writePrepare | .write | .writeAck => true

/-- Every address the decoder may pass to the router matches (R253, R283). -/
def BusCtx.addrOk (B : BusCtx) : Bool :=
  (!B.maddrValid || matchAddr (addr7 B.maddr)) && (!addressed B.state || matchAddr (addr7 B.addr))

/-- "`D.cnt` is at least 1 whenever `dstate = BLOCK_RW`" (R189). -/
def DevCtx.countOk (D : DevCtx) : Bool := D.dstate != .blockRw || D.cnt != 0

/-- R48's table on both buses. -/
def State.PinsOk (s : State) : Prop := ∀ b, (s.busAt b).pinsOk = true

/-- The addresses that reach the router match, on both buses. -/
def State.AddrOk (s : State) : Prop := ∀ b, (s.busAt b).addrOk = true

/-- The counters of both buses and of all devices are in range. -/
def State.CountsOk (s : State) : Prop :=
  (∀ b, (s.busAt b).countOk = true) ∧ ∀ d, (s.devAt d).countOk = true

/-- The proviso of R48: the input to come is no delivered stop event on a bus whose pin is driven. -/
def State.noStopWhileDriving (s : State) : Prop :=
  ∀ b rest, s.inputs = .event b .data true true :: rest →
    monitored (s.busAt b).sdaMon = true → (s.busAt b).sdaDir = .inp

/-- The input to come is one the hardware has. -/
def State.hardwareNext (s : State) : Prop := ∀ x rest, s.inputs = x :: rest → x.fromHardware = true

/-! ## The two sides of the block -/

/-- The bus a telemetry slot belongs to: slots 0 to 7 to bus 0, 8 to 13 to bus 1 (R72). -/
def slotBus (i : SlotId) : BusId := ⟨i.val / 8, by omega⟩

/-- Two states agree on the side of bus `b` (R72): `bus[b]`, the devices of the bus, the telemetry
elements of their slots, on bus 1 the two request flags, and the draws made for the bus (the draws are the
model's, assumption log 6). -/
structure SameSide (b : BusId) (s t : State) : Prop where
  bus : t.busAt b = s.busAt b
  dev : ∀ d, busOf d = b → t.devAt d = s.devAt d
  enabled : ∀ i, slotBus i = b → t.enabledAt i = s.enabledAt i
  requested : ∀ i, slotBus i = b → t.requestedAt i = s.requestedAt i
  actual : ∀ i, slotBus i = b → t.actualAt i = s.actualAt i
  start : b = 1 → t.tel.startRequested = s.tel.startRequested
  rpm : b = 1 → t.tel.rpmUpdateRequested = s.tel.rpmUpdateRequested
  draws : t.drawsAt b = s.drawsAt b

/-- Nothing but the side of bus `b` differs, and of that side not the actual tach values (R72, R265). -/
structure OnlySide (b : BusId) (s t : State) : Prop where
  otherSide : ∀ b', b' ≠ b → SameSide b' s t
  actual : t.tel.actualTach = s.tel.actualTach
  inputs : t.inputs = s.inputs
  answer : t.answer = s.answer

end Machine

end Sys2Proof
end

