-- ==== Sys2Proof/Certificates/Slice0/Obligations.lean ====
section
/-! DEFINITION. The statements about XFSC-I2CS, for the provers. Each docstring names the rules of spec/
it comes from; where a clause rests on a choice the spec marks as its own decision (D<n> of
spec/92_eei_decisions.md) or on a choice of this model (notes/assumptions), the docstring says so. -/

open Sys2Proof Sys2Proof.Machine

/-! ## Encoding -/

/-- Decoding the encoding of a well-formed operation gives it back, with every operand at every value.
The words are the spec's (R91, R92, R100, R105); the frame around them is the model's (assumption log 3). -/
def Obligations.EncodedOperationsDecodeBack : Prop :=
  ∀ i : Instr, i.wf = true → decode (encode i) = .ok i

/-- Each frame has one meaning: what decodes is well-formed and encodes back to the same bytes, so no
two frames are one operation and no bit is ignored. The frame is the model's (assumption log 3). -/
def Obligations.DecodedFramesEncodeBack : Prop :=
  ∀ (bs : List Byte) (i : Instr), decode bs = .ok i → i.wf = true ∧ encode i = bs

/-- Fifteen frames decode to the operations they stand for, and one is rejected. Thirteen hold a word written out
bit by bit from the encoding column of opcode_table.json (DISP7, ADDR8, CMD8, REG7W, REG7R); the DEVOP and the PORT
frame hold the model's own number of their row, for the table gives those rows no encoding (R105); the rejected frame
holds a state code that does not occur (R100). The frames are the model's (assumption log 3). -/
def Obligations.TableWordsDecodeAsTabled : Prop :=
  decode [0, 0, 0b00000110] = .ok (.evStartIdle 0) ∧
  decode [0, 1, 0b00111110] = .ok (.evStartWrite 1) ∧
  decode [0, 1, 0b00001011] = .ok (.addrShift 1 true) ∧
  decode [0, 0, 0b01000001] = .ok (.wrAck 0 true) ∧
  decode [0, 0, 0b01001010] = .ok (.clkInertWaitStop 0 true false) ∧
  decode [0, 0, 0b01010111] = .bad (.reservedStateCode 0b01010111) ∧
  decode [1, 1, 0b10100010] = .ok (.addrFamW 1 0b01) ∧
  decode [1, 0, 0b10100111] = .ok (.addrFamR 0 0b11) ∧
  decode [2, 0, 0b00101010] = .ok (.cmdSingle 0 0x2A) ∧
  decode [2, 3, 0b11001010] = .ok (.cmdBlock 3 0x4A) ∧
  decode [3, 6, 0b00101101, 0x27] = .ok (.rfWReq1Hi 6 0x27) ∧
  decode [3, 2, 0b01001010, 0x55] = .ok (.rfWNone 2 0x4A 0x55) ∧
  decode [4, 5, 0b01001101] = .ok (.rfRAct1Hi 5) ∧
  decode [4, 5, 0b00101010] = .ok (.rfRNone 5 0x2A) ∧
  decode [5, 7, 3, 0x99] = .ok (.dwBlockRw 7 0x99) ∧
  decode [6, 2, 13, 0xEF, 0xBE] = .ok (.hostWrAct 13 0xBEEF)

/-! ## Steps -/

/-- A step runs the decoded operation. The dispatch word of the decoder's state and the event selects, through the
table, the operation an event runs, in every state in which the arming is as R48 says (R100; the word is the
spec's own device, D11, D12). A call runs the operation its bytes encode (assumption logs 2 and 3). -/
def Obligations.StepRunsTheDecodedOperation : Prop :=
  (∀ (s : State) (b : BusId) (line : Line) (scl sda : Bool) (i : Instr) (rest : List Input),
    s.inputs = .event b line scl sda :: rest → (s.busAt b).pinsOk = true →
    (line = .data → (s.busAt b).sdaMon ≠ .off) →
    decode (disp7Frame b (s.busAt b).state line scl sda) = .ok i →
    step s = exec i { s with inputs := rest }) ∧
  (∀ (s : State) (frame : List Byte) (i : Instr) (rest : List Input),
    s.inputs = .call frame :: rest → decode frame = .ok i → step s = exec i { s with inputs := rest })

/-- R125: a clock event whose level is not the armed one changes nothing; any other runs the operation of
the decoder's state (R126 to R135). For every state, reachable or not. -/
def Obligations.ClockEventsPassTheGuardOrChangeNothing : Prop :=
  ∀ (s : State) (b : BusId) (scl sda : Bool) (rest : List Input),
    s.inputs = .event b .clock scl sda :: rest →
    ((scl = true ∧ (s.busAt b).sclArm = .fall ∨ scl = false ∧ (s.busAt b).sclArm = .rise) →
      step s = .next { s with inputs := rest }) ∧
    ((scl = true ∧ (s.busAt b).sclArm = .rise ∨ scl = false ∧ (s.busAt b).sclArm = .fall) →
      step s = exec
        (match (s.busAt b).state with
          | .idle => .clkInertIdle b scl sda
          | .address => .addrShift b sda
          | .addressAck => .addrAck b sda
          | .readPrepare => .rdPrep b sda
          | .read => .rdBit b sda
          | .readAck => .rdAck b sda
          | .writePrepare => .wrPrep b sda
          | .write => .wrShift b sda
          | .writeAck => .wrAck b sda
          | .waitStop => .clkInertWaitStop b scl sda) { s with inputs := rest })

/-- R120, R122 to R124: a data-line event is lost while monitoring is off (D2, D4); otherwise it is a stop,
a start where a start is accepted, or nothing. -/
def Obligations.DataEventsSelectStopStartOrNothing : Prop :=
  ∀ (s : State) (b : BusId) (scl sda : Bool) (rest : List Input),
    s.inputs = .event b .data scl sda :: rest →
    ((s.busAt b).sdaMon = .off → step s = .next { s with inputs := rest }) ∧
    ((s.busAt b).sdaMon ≠ .off →
      (scl = true → sda = true → step s = exec (.evStop b (s.busAt b).state) { s with inputs := rest }) ∧
      (scl = true → sda = false → (s.busAt b).state = .idle →
        step s = exec (.evStartIdle b) { s with inputs := rest }) ∧
      (scl = true → sda = false → (s.busAt b).state = .write →
        step s = exec (.evStartWrite b) { s with inputs := rest }) ∧
      (scl = false ∨ (sda = false ∧ (s.busAt b).state ≠ .idle ∧ (s.busAt b).state ≠ .write) →
        step s = .next { s with inputs := rest }))

/-- R102, R250: no operation faults or is refused, on any operands, in any state. -/
def Obligations.EveryOperationCompletes : Prop :=
  ∀ (i : Instr) (s : State), ∃ t, exec i s = .next t

/-- R121 "The step function is total": every input of the hardware is taken by one step that answers a next
state and takes no other input; with none to come the block keeps all state (R269; assumption log 1). -/
def Obligations.HardwareInputsCompleteOneByOne : Prop :=
  ∀ s : State, s.hardwareNext →
    (s.inputs = [] → step s = .next s) ∧ ∃ t, step s = .next t ∧ t.inputs = s.inputs.tail

/-- R280, R49: reset at any point puts every field of the block at its reset value. The values and the reset
input are the spec's decisions (D1, D23); that the model's own fields stay is assumption log 13. -/
def Obligations.ResetSetsEveryField : Prop :=
  ∀ (s : State) (rest : List Input), s.inputs = .reset :: rest →
    ∃ t, step s = .next t ∧
      (∀ b, t.busAt b = ⟨.idle, 0, 0x00, 0x00, false, 0x00, false, .rise, .fall, .inp, false⟩) ∧
      (∀ d, t.devAt d = ⟨.idle, 0x00, 0x00, 0x00, 0x00⟩) ∧
      (∀ i, t.enabledAt i = false ∧ t.requestedAt i = 0x0000 ∧ t.actualAt i = 0x0000) ∧
      t.tel.startRequested = false ∧ t.tel.rpmUpdateRequested = false ∧
      t.inputs = rest ∧ t.answer = s.answer ∧ t.draws = s.draws

/-- The state after reset meets the invariants (R48, R23, R189, R253; reset values D23). -/
def Obligations.ResetMeetsTheInvariants : Prop :=
  State.reset.PinsOk ∧ State.reset.AddrOk ∧ State.reset.CountsOk

/-! ## The bus decoder, operation by operation -/

/-- R122: a stop. The fields it leaves alone, and telling only the device matched last, are D28 and D7. -/
def Obligations.StopReturnsToIdleAndTellsTheMatchedDevice : Prop :=
  ∀ (b : BusId) (st : BusState) (s : State), ∃ t, exec (.evStop b st) s = .next t ∧
    t.busAt b = { s.busAt b with state := .idle, sdaMon := .fall } ∧
    (∀ b', b' ≠ b → t.busAt b' = s.busAt b') ∧
    (∀ d, t.devAt d =
      if (s.busAt b).maddrValid = true ∧ route b (s.busAt b).maddr = .dev d then
        { s.devAt d with dstate := .idle }
      else s.devAt d) ∧
    t.tel = s.tel ∧ t.inputs = s.inputs ∧ t.answer = s.answer ∧ t.draws = s.draws

/-- R123: a start, in `IDLE` and repeated in `WRITE`. Monitoring both edges is D5. -/
def Obligations.StartBeginsTheAddressPhase : Prop :=
  ∀ (b : BusId) (s : State) (i : Instr), i = .evStartIdle b ∨ i = .evStartWrite b →
    ∃ t, exec i s = .next t ∧ OnlyBus b s t ∧
      t.busAt b = { s.busAt b with
        sclArm := .rise, addr := 0x00, bitcnt := 0, state := .address, sdaMon := .both }

/-- R124, R125, R126: "no state change". -/
def Obligations.InertOperationsChangeNothing : Prop :=
  ∀ (b : BusId) (st : BusState) (scl sda : Bool) (s : State),
    exec (.evDatNopScl1 b st) s = .next s ∧ exec (.evDatNopScl0 b st sda) s = .next s ∧
    exec (.clkInertIdle b scl sda) s = .next s ∧ exec (.clkInertWaitStop b scl sda) s = .next s ∧
    exec (.clkGuard b st scl sda) s = .next s

/-- R127 and R128: an address bit, most significant first; on the eighth the match against the four family
addresses and `AUX_ADDR`. The latch of the matched address is D7, the family's base D8. -/
def Obligations.AddressBitsShiftInAndTheEighthDecides : Prop :=
  ∀ (b : BusId) (sda : Bool) (s : State), ∃ t, exec (.addrShift b sda) s = .next t ∧ OnlyBus b s t ∧
    ∀ (B : BusCtx) (a : Byte), B = s.busAt b → a = B.addr.extractLsb' 0 7 ++ BitVec.ofBool sda →
      (B.bitcnt + 1 ≠ 8 → t.busAt b = { B with addr := a, bitcnt := B.bitcnt + 1 }) ∧
      (B.bitcnt + 1 = 8 →
        (0xA0 ≤ a.toNat ∧ a.toNat ≤ 0xA7 ∨ a.extractLsb' 1 7 = Config.auxAddr) →
        t.busAt b = { B with addr := a, bitcnt := 8, maddr := a, maddrValid := true,
                             state := .addressAck, sclArm := .fall }) ∧
      (B.bitcnt + 1 = 8 →
        ¬(0xA0 ≤ a.toNat ∧ a.toNat ≤ 0xA7 ∨ a.extractLsb' 1 7 = Config.auxAddr) →
        t.busAt b = { B with addr := a, bitcnt := 8, state := .waitStop })

/-- R129: the acknowledge is driven and the read/write bit decides. Which value reads is D10 (general
knowledge, assumption log 10). -/
def Obligations.AddressAcknowledgeDrivesLowAndBranches : Prop :=
  ∀ (b : BusId) (sda : Bool) (s : State), ∃ t, exec (.addrAck b sda) s = .next t ∧ OnlyBus b s t ∧
    t.busAt b = { s.busAt b with
      sdaDir := .out, sdaDrv := false,
      state := if (s.busAt b).addr.getLsbD 0 = true then .readPrepare else .writePrepare }

/-- R130: a byte is fetched from the device layer and its first bit driven in the same step. Switching
monitoring off here is D6. -/
def Obligations.ReadPrepareFetchesAByteAndDrivesItsFirstBit : Prop :=
  ∀ (b : BusId) (sda : Bool) (s : State) (r : Reply) (u : State),
    onByteRequested b (s.busAt b).addr s = (r, u) →
    ∃ t, exec (.rdPrep b sda) s = .next t ∧
      t.busAt b = { s.busAt b with
        data := r.byte.extractLsb' 0 7 ++ 0#1, last := r.isLast, sdaDir := .out, sdaMon := .off,
        state := .read, bitcnt := 1, sdaDrv := r.byte.getLsbD 7 } ∧
      (∀ b', b' ≠ b → t.busAt b' = s.busAt b') ∧
      t.dev = u.dev ∧ t.tel = s.tel ∧ t.draws = u.draws ∧ t.inputs = s.inputs ∧ t.answer = s.answer

/-- R131: one bit of the byte on the pin, shifted left; the eighth ends the byte. Selected by a clock event
at the armed level while the state is `READ`, and performed as the tail of RD.PREP, on the byte loaded. -/
def Obligations.ReadBitDrivesTheTopBitAndShifts : Prop :=
  ∀ (b : BusId) (sda : Bool) (s : State), ∃ t, exec (.rdBit b sda) s = .next t ∧ OnlyBus b s t ∧
    t.busAt b = { s.busAt b with
      sdaDrv := (s.busAt b).data.getLsbD 7, data := (s.busAt b).data.extractLsb' 0 7 ++ 0#1,
      bitcnt := (s.busAt b).bitcnt + 1,
      state := if (s.busAt b).bitcnt + 1 = 8 then .readAck else (s.busAt b).state } ∧
    (∀ (scl : Bool) (rest : List Input), s.inputs = .event b .clock scl sda :: rest →
      (s.busAt b).state = .read → scl = armedLevel (s.busAt b).sclArm →
      step s = exec (.rdBit b sda) { s with inputs := rest }) ∧
    exec (.rdPrep b sda) s = exec (.rdBit b sda) (loadByte b (onByteRequested b (s.busAt b).addr s))

/-- R132: the pin is released; the branch is on the device layer's mark alone (the master's acknowledge bit
has no effect: D27). -/
def Obligations.ReadAcknowledgeReleasesThePinAndBranchesOnLast : Prop :=
  ∀ (b : BusId) (sda : Bool) (s : State), ∃ t, exec (.rdAck b sda) s = .next t ∧ OnlyBus b s t ∧
    ((s.busAt b).last = true →
      t.busAt b = { s.busAt b with sdaDir := .inp, sdaMon := .both, state := .waitStop }) ∧
    ((s.busAt b).last = false → t.busAt b = { s.busAt b with sdaDir := .inp, state := .readPrepare })

/-- R133: the pin is released, the clock armed for its rising edge, the accumulator cleared. Selected by a
clock event at the armed level while the state is `WRITE_PREPARE`. -/
def Obligations.WritePrepareReleasesThePinAndClears : Prop :=
  ∀ (b : BusId) (sda : Bool) (s : State), ∃ t, exec (.wrPrep b sda) s = .next t ∧ OnlyBus b s t ∧
    t.busAt b = { s.busAt b with
      sdaDir := .inp, sclArm := .rise, state := .write, bitcnt := 0, data := 0x00 } ∧
    ∀ (scl : Bool) (rest : List Input), s.inputs = .event b .clock scl sda :: rest →
      (s.busAt b).state = .writePrepare → scl = armedLevel (s.busAt b).sclArm →
      step s = exec (.wrPrep b sda) { s with inputs := rest }

/-- R134: one data bit shifted in, most significant first; the eighth goes to the acknowledge. Selected by a
clock event at the armed level while the state is `WRITE`. -/
def Obligations.WriteBitShiftsInAndTheEighthEndsTheByte : Prop :=
  ∀ (b : BusId) (sda : Bool) (s : State), ∃ t, exec (.wrShift b sda) s = .next t ∧ OnlyBus b s t ∧
    (∀ (B : BusCtx) (x : Byte), B = s.busAt b → x = B.data.extractLsb' 0 7 ++ BitVec.ofBool sda →
      (B.bitcnt + 1 ≠ 8 → t.busAt b = { B with data := x, bitcnt := B.bitcnt + 1 }) ∧
      (B.bitcnt + 1 = 8 →
        t.busAt b = { B with data := x, bitcnt := 8, state := .writeAck, sclArm := .fall })) ∧
    ∀ (scl : Bool) (rest : List Input), s.inputs = .event b .clock scl sda :: rest →
      (s.busAt b).state = .write → scl = armedLevel (s.busAt b).sclArm →
      step s = exec (.wrShift b sda) { s with inputs := rest }

/-- R135: the acknowledge is driven, the byte handed to the device layer, and the decoder ready for the next
byte; selected by a clock event at the armed level while the state is `WRITE_ACK`. It is "the only point at
which a register can change because of the bus": an event changes the telemetry, a staging byte or a
read-count only so. -/
def Obligations.WriteAcknowledgeDeliversTheByte : Prop :=
  ∀ (b : BusId) (sda : Bool) (s : State),
    (∀ u, onByteWritten b (s.busAt b).addr (s.busAt b).data s = u →
      ∃ t, exec (.wrAck b sda) s = .next t ∧
        t.busAt b = { s.busAt b with sdaDir := .out, sdaDrv := false, state := .writePrepare } ∧
        (∀ b', b' ≠ b → t.busAt b' = s.busAt b') ∧
        t.dev = u.dev ∧ t.tel = u.tel ∧ t.inputs = s.inputs ∧ t.answer = s.answer ∧ t.draws = s.draws) ∧
    (∀ (scl : Bool) (rest : List Input), s.inputs = .event b .clock scl sda :: rest →
      (s.busAt b).state = .writeAck → scl = armedLevel (s.busAt b).sclArm →
      step s = exec (.wrAck b sda) { s with inputs := rest }) ∧
    ∀ (line : Line) (scl : Bool) (rest : List Input) (t : State),
      s.inputs = .event b line scl sda :: rest → step s = .next t →
      (t.tel ≠ s.tel ∨
        ∃ d, (t.devAt d).stage ≠ (s.devAt d).stage ∨ (t.devAt d).rdcnt ≠ (s.devAt d).rdcnt) →
      line = .clock ∧ scl = armedLevel (s.busAt b).sclArm ∧ (s.busAt b).state = .writeAck

/-- The outcomes of a whole address byte (R127, R128, R129, R171): matched ones are latched and acknowledged,
others leave the decoder in `WAIT_STOP`. That a row of ADDR8 stands for the whole outcome is the model's
reading (assumption log 8); the family's base is D8, the latch D7, the polarity D10. -/
def Obligations.AddressBytesComeToTheirTabledOutcomes : Prop :=
  ∀ (b : BusId) (s : State),
    (∀ (i : Instr) (a : Byte) (st : BusState),
      ((∃ oo : BitVec 2, i = .addrFamW b oo ∧ a = 0b10100#5 ++ oo ++ 0#1 ∧ st = .writePrepare) ∨
       (∃ oo : BitVec 2, i = .addrFamR b oo ∧ a = 0b10100#5 ++ oo ++ 1#1 ∧ st = .readPrepare) ∨
       (i = .addrAuxW b ∧ a = Config.auxAddr ++ 0#1 ∧ st = .writePrepare) ∨
       (i = .addrAuxR b ∧ a = Config.auxAddr ++ 1#1 ∧ st = .readPrepare)) →
      ∃ t, exec i s = .next t ∧ OnlyBus b s t ∧
        t.busAt b = { s.busAt b with
          addr := a, bitcnt := 8, maddr := a, maddrValid := true, sclArm := .fall,
          sdaDir := .out, sdaDrv := false, state := st }) ∧
    (∀ a : Byte, (Instr.addrNoMatch b a).wf = true →
      ∃ t, exec (.addrNoMatch b a) s = .next t ∧ OnlyBus b s t ∧
        t.busAt b = { s.busAt b with addr := a, bitcnt := 8, state := .waitStop })

/-! ## Bytes bit by bit -/

/-- Eight clock events with the bits of a byte, most significant first (R61, R96), and the falling edge after
them, come to exactly the table's outcome of that address byte (assumption log 8). -/
def Obligations.BitwiseAddressPhaseIsItsTableRow : Prop :=
  ∀ (s : State) (b : BusId) (a : Byte) (x : Bool) (rest : List Input),
    (s.busAt b).state = .address → (s.busAt b).bitcnt = 0 → (s.busAt b).sclArm = .rise →
    s.inputs = (bitsOf a).map (fun v => .event b .clock true v) ++ .event b .clock false x :: rest →
    Host.Core.run Sys2Proof.core 9 s = exec (addr8Row b a) { s with inputs := rest }

/-- R96, R134, R135: eight data bits, most significant first, and the falling edge after them hand exactly
that byte to the device layer, acknowledged. -/
def Obligations.EightDataBitsDeliverTheByte : Prop :=
  ∀ (s u : State) (b : BusId) (v : Byte) (x : Bool) (rest : List Input),
    (s.busAt b).state = .write → (s.busAt b).bitcnt = 0 → (s.busAt b).sclArm = .rise →
    s.inputs = (bitsOf v).map (fun w => .event b .clock true w) ++ .event b .clock false x :: rest →
    onByteWritten b (s.busAt b).addr v s = u →
    ∃ t, Host.Core.run Sys2Proof.core 9 s = .next t ∧
      t.busAt b = { s.busAt b with
        data := v, bitcnt := 8, state := .writePrepare, sclArm := .fall, sdaDir := .out, sdaDrv := false } ∧
      (∀ b', b' ≠ b → t.busAt b' = s.busAt b') ∧
      t.dev = u.dev ∧ t.tel = u.tel ∧ t.inputs = rest ∧ t.answer = s.answer ∧ t.draws = s.draws

/-- R61, R130, R131: after RD.PREP and k more falling edges, the pin carries bit 7 - k of the byte the device
layer gave, for each of the eight bits. -/
def Obligations.ReadByteIsSentMostSignificantBitFirst : Prop :=
  ∀ (s : State) (b : BusId) (k : Nat) (xs : List Bool) (rest : List Input),
    (s.busAt b).state = .readPrepare → (s.busAt b).sclArm = .fall → k < 8 → xs.length = k + 1 →
    s.inputs = xs.map (fun v => .event b .clock false v) ++ rest →
    ∃ t, Host.Core.run Sys2Proof.core (k + 1) s = .next t ∧ (t.busAt b).sdaDir = .out ∧
      (t.busAt b).sdaDrv = (onByteRequested b (s.busAt b).addr s).1.byte.getLsbD (7 - k) ∧
      (t.busAt b).state = (if k = 7 then .readAck else .read)

/-! ## The router -/

/-- R170: `AUX_ADDR` first, then the index formula on unbounded integers, bounded to 0 to 7. -/
def Obligations.RouteIsTheIndexFormula : Prop :=
  ∀ (b : BusId) (a : Byte) (idx : Int),
    idx = 4 * (b.val : Int) + (3 - ((a.toNat / 2 : Nat) - (Config.devBase.toNat : Int))) →
    (a.extractLsb' 1 7 = Config.auxAddr → route b a = .aux) ∧
    (a.extractLsb' 1 7 ≠ Config.auxAddr → 0 ≤ idx → idx ≤ 7 →
      ∃ d : DevId, (d.val : Int) = idx ∧ route b a = .dev d) ∧
    (a.extractLsb' 1 7 ≠ Config.auxAddr → ¬(0 ≤ idx ∧ idx ≤ 7) → route b a = .none)

/-- R172 to R174: what each of the three dispatch operations does for each outcome of the router. The
auxiliary reply's mark is D9, the unrouted reply's byte is free and its mark D16. -/
def Obligations.RoutedOperationsReachTheirDevice : Prop :=
  ∀ (b : BusId) (a v : Byte) (s : State),
    (∀ d, route b a = .dev d →
      onByteWritten b a v s = devWrite d v s ∧ onByteRequested b a s = devRead d s ∧
      onStop b a s = devStop d s) ∧
    (route b a = .aux →
      onByteWritten b a v s = s ∧ onByteRequested b a s = (⟨Config.auxSentinel, true⟩, s) ∧
      onStop b a s = s) ∧
    (route b a = .none →
      onByteWritten b a v s = s ∧ onStop b a s = s ∧ (onByteRequested b a s).1.isLast = true ∧
      (onByteRequested b a s).2.bus = s.bus ∧ (onByteRequested b a s).2.dev = s.dev ∧
      (onByteRequested b a s).2.tel = s.tel)

/-! ## The device register state machine -/

/-- R186: the command byte selects the register and the mode, and touches nothing else. Selected by a byte
written while the device is `IDLE`. -/
def Obligations.CommandByteSelectsRegisterAndMode : Prop :=
  ∀ (d : DevId) (v : Byte) (s : State), ∃ t, exec (.dwIdle d v) s = .next t ∧ OnlyDev d s t ∧
    t.devAt d = { s.devAt d with
      reg := v.extractLsb' 0 7, dstate := if v.getLsbD 7 = true then .blockCount else .single } ∧
    ((s.devAt d).dstate = .idle → devWrite d v s = t)

/-- R92: the two rows of CMD8 are the command bytes `{0, r}` and `{1, r}`, every one of them a command. That a row
runs DW.IDLE with its byte is the model's reading of the table (assumption log 9). -/
def Obligations.CommandRowsRunTheirCommandByte : Prop :=
  ∀ (d : DevId) (r : RegAddr) (s : State),
    (∃ t, exec (.cmdSingle d r) s = .next t ∧ OnlyDev d s t ∧
      t.devAt d = { s.devAt d with reg := r, dstate := .single } ∧
      ((s.devAt d).dstate = .idle → devWrite d (0#1 ++ r) s = t)) ∧
    ∃ t, exec (.cmdBlock d r) s = .next t ∧ OnlyDev d s t ∧
      t.devAt d = { s.devAt d with reg := r, dstate := .blockCount } ∧
      ((s.devAt d).dstate = .idle → devWrite d (1#1 ++ r) s = t)

/-- R187: the value byte of a single write is committed once, at `reg`, and the device is done. Selected by
a byte written while the device is `SINGLE`. -/
def Obligations.SingleWriteCommitsOnce : Prop :=
  ∀ (d : DevId) (v : Byte) (s u : State), rfWrite d (s.devAt d).reg v s = u →
    ∃ t, exec (.dwSingle d v) s = .next t ∧
      t.devAt d = { u.devAt d with dstate := .invalid } ∧ (t.devAt d).reg = (s.devAt d).reg ∧
      (∀ d', d' ≠ d → t.devAt d' = s.devAt d') ∧ t.tel = u.tel ∧
      t.bus = s.bus ∧ t.inputs = s.inputs ∧ t.answer = s.answer ∧ t.draws = s.draws ∧
      ((s.devAt d).dstate = .single → devWrite d v s = t)

/-- R188: the count byte of a block write. That 0 ends the block is D14. -/
def Obligations.BlockWriteCountIsLoaded : Prop :=
  ∀ (d : DevId) (v : Byte) (s : State), ∃ t, exec (.dwBlockCount d v) s = .next t ∧ OnlyDev d s t ∧
    t.devAt d = { s.devAt d with cnt := v, dstate := if v = 0 then .invalid else .blockRw } ∧
    ((s.devAt d).dstate = .blockCount → devWrite d v s = t)

/-- R189: a data byte of a block write is committed at `reg`, `reg` counts up modulo 128, `cnt` down modulo
256, and at 0 the block ends. Selected by a byte written while the device is `BLOCK_RW`. -/
def Obligations.BlockWriteByteCommitsAndAdvances : Prop :=
  ∀ (d : DevId) (v : Byte) (s u : State), rfWrite d (s.devAt d).reg v s = u →
    ∃ t, exec (.dwBlockRw d v) s = .next t ∧
      t.devAt d = { u.devAt d with
        reg := BitVec.ofNat 7 (((s.devAt d).reg.toNat + 1) % 128),
        cnt := BitVec.ofNat 8 (((s.devAt d).cnt.toNat + 255) % 256),
        dstate := if (s.devAt d).cnt = 1 then .invalid else (s.devAt d).dstate } ∧
      (∀ d', d' ≠ d → t.devAt d' = s.devAt d') ∧ t.tel = u.tel ∧
      t.bus = s.bus ∧ t.inputs = s.inputs ∧ t.answer = s.answer ∧ t.draws = s.draws ∧
      ((s.devAt d).dstate = .blockRw → devWrite d v s = t)

/-- R190, R191, R195: a byte written to an `INVALID` device is dropped; a read of an `IDLE` or `INVALID` device
answers (0x00, last) and changes nothing. The dropped byte, the mark and the unchanged state are D15;
that the answer is kept in `answer` is assumption log 7. -/
def Obligations.OutOfTurnAccessesAreHarmless : Prop :=
  ∀ (d : DevId) (v : Byte) (s : State),
    exec (.dwInvalid d v) s = .next s ∧
    exec (.drIdle d) s = .next { s with answer := .reply 0x00 true } ∧
    exec (.drInvalid d) s = .next { s with answer := .reply 0x00 true } ∧
    ((s.devAt d).dstate = .invalid → devWrite d v s = s ∧ devRead d s = (⟨0x00, true⟩, s)) ∧
    ((s.devAt d).dstate = .idle → devRead d s = (⟨0x00, true⟩, s))

/-- R192: a single read answers the register's value, marked last, and the device is done. Selected by a byte
requested while the device is `SINGLE`. -/
def Obligations.SingleReadReturnsTheRegisterMarkedLast : Prop :=
  ∀ (d : DevId) (x : Byte) (s u : State), rfRead d (s.devAt d).reg s = (x, u) →
    ∃ t, exec (.drSingle d) s = .next { t with answer := .reply x true } ∧
      t.devAt d = { s.devAt d with dstate := .invalid } ∧ (∀ d', d' ≠ d → t.devAt d' = s.devAt d') ∧
      t.tel = s.tel ∧ t.bus = s.bus ∧ t.inputs = s.inputs ∧ t.answer = s.answer ∧ t.draws = u.draws ∧
      ((s.devAt d).dstate = .single → devRead d s = (⟨x, true⟩, t))

/-- R193: the first byte of a block read is the read-count; 0 is marked last and ends the block. Selected by a
byte requested while the device is `BLOCK_COUNT`. -/
def Obligations.BlockReadStartsWithTheReadCount : Prop :=
  ∀ (d : DevId) (s : State), ∃ t,
    exec (.drBlockCount d) s =
      .next { t with answer := .reply (s.devAt d).rdcnt (decide ((s.devAt d).rdcnt = 0)) } ∧
    OnlyDev d s t ∧
    t.devAt d = { s.devAt d with
      cnt := (s.devAt d).rdcnt, dstate := if (s.devAt d).rdcnt = 0 then .invalid else .blockRw } ∧
    ((s.devAt d).dstate = .blockCount →
      devRead d s = (⟨(s.devAt d).rdcnt, decide ((s.devAt d).rdcnt = 0)⟩, t))

/-- R194: a data byte of a block read; it is marked last exactly when the count reaches 0. Selected by a byte
requested while the device is `BLOCK_RW`. -/
def Obligations.BlockReadByteAdvancesAndMarksTheLast : Prop :=
  ∀ (d : DevId) (x : Byte) (s u : State), rfRead d (s.devAt d).reg s = (x, u) →
    ∃ t, exec (.drBlockRw d) s = .next { t with answer := .reply x (decide ((s.devAt d).cnt = 1)) } ∧
      t.devAt d = { s.devAt d with
        reg := BitVec.ofNat 7 (((s.devAt d).reg.toNat + 1) % 128),
        cnt := BitVec.ofNat 8 (((s.devAt d).cnt.toNat + 255) % 256),
        dstate := if (s.devAt d).cnt = 1 then .invalid else (s.devAt d).dstate } ∧
      (∀ d', d' ≠ d → t.devAt d' = s.devAt d') ∧
      t.tel = s.tel ∧ t.bus = s.bus ∧ t.inputs = s.inputs ∧ t.answer = s.answer ∧ t.draws = u.draws ∧
      ((s.devAt d).dstate = .blockRw → devRead d s = (⟨x, decide ((s.devAt d).cnt = 1)⟩, t))

/-- R189, R194: a block write of N bytes from register R writes registers R, R+1, … in order, one byte each, and
nothing after it; a block read marks exactly the last byte of its count. Registers wrap modulo 128 (D13); the
premise is R189's invariant that a running block has a count of at least 1. -/
def Obligations.BlocksWalkConsecutiveRegisters : Prop :=
  ∀ (d : DevId) (s : State) (r : RegAddr) (c : Byte),
    (s.devAt d).dstate = .blockRw → (s.devAt d).countOk = true → r = (s.devAt d).reg → c = (s.devAt d).cnt →
    (∀ (vs : List Byte) (t w : State), vs.length ≤ c.toNat →
      vs.foldl (fun u v => devWrite d v u) s = t →
      vs.zipIdx.foldl (fun u vi => rfWrite d (r + BitVec.ofNat 7 vi.2) vi.1 u) s = w →
      t.tel = w.tel ∧ t.draws = w.draws ∧ (∀ d', d' ≠ d → t.devAt d' = s.devAt d') ∧
      t.devAt d = { w.devAt d with
        reg := r + BitVec.ofNat 7 vs.length, cnt := c - BitVec.ofNat 8 vs.length,
        dstate := if vs.length = c.toNat then .invalid else .blockRw }) ∧
    ∀ (n : Nat) (t : State), n < c.toNat → Nat.iterate (fun u => (devRead d u).2) n s = t →
      (devRead d t).1.byte = (rfRead d (r + BitVec.ofNat 7 n) t).1 ∧
      (devRead d t).1.isLast = decide (n + 1 = c.toNat)

/-- R196: a stop returns the device to `IDLE` from any state; "`reg`, `cnt`, `stage` and `rdcnt` keep their
values". -/
def Obligations.DeviceStopReturnsToIdle : Prop :=
  ∀ (d : DevId) (s : State), ∃ t, exec (.dstop d) s = .next t ∧ OnlyDev d s t ∧
    t.devAt d = { s.devAt d with dstate := .idle } ∧ devStop d s = t

/-! ## The register file -/

/-- R218, R220: both low registers stage their byte in the device's one staging byte. -/
def Obligations.LowByteWritesStageTheByte : Prop :=
  ∀ (d : DevId) (v : Byte) (s : State) (i : Instr), i = .rfWReq0Lo d v ∨ i = .rfWReq1Lo d v →
    ∃ t, exec i s = .next t ∧ OnlyDev d s t ∧ t.devAt d = { s.devAt d with stage := v }

/-- R216, R217: `RDCNT` sets the read-count of this device alone (D22); `ENABLE` sets the first slot's flag from
bit 6 and the second's from bit 7 (D18); a slot that does not exist is not written (R229, D17). -/
def Obligations.ReadCountAndEnableWritesReachTheirOwnDevice : Prop :=
  ∀ (d : DevId) (v : Byte) (s : State),
    (∃ t, exec (.rfWRdcnt d v) s = .next t ∧ OnlyDev d s t ∧
      t.devAt d = { s.devAt d with rdcnt := v }) ∧
    ∃ t, exec (.rfWEnable d v) s = .next t ∧ OnlyTel s t ∧
      (∀ j : SlotId, t.enabledAt j =
        if j.val = 2 * d.val then v.getLsbD 6 else if j.val = 2 * d.val + 1 then v.getLsbD 7
        else s.enabledAt j) ∧
      t.tel = { s.tel with enabled := t.tel.enabled }

/-- R219: the high register of the first pair commits `{v, stage}` to the device's first slot, if it has one
(the slots are D17), and triggers nothing. -/
def Obligations.FirstHighByteCommitsTheFirstSlot : Prop :=
  ∀ (d : DevId) (v : Byte) (s : State), ∃ t, exec (.rfWReq0Hi d v) s = .next t ∧ OnlyTel s t ∧
    (∀ j : SlotId, t.requestedAt j =
      if j.val = 2 * d.val then BitVec.ofNat 16 (v.toNat * 256 + (s.devAt d).stage.toNat)
      else s.requestedAt j) ∧
    t.tel.enabled = s.tel.enabled ∧ t.tel.actualTach = s.tel.actualTach ∧
    t.tel.startRequested = s.tel.startRequested ∧ t.tel.rpmUpdateRequested = s.tel.rpmUpdateRequested

/-- R221: the high register of the second pair commits to the second slot, if there is one, and on device 6
alone sets `rpmUpdateRequested` (the slots and the device are D17, the trigger's byte D19). -/
def Obligations.SecondHighByteCommitsAndTriggersOnDevice6 : Prop :=
  ∀ (d : DevId) (v : Byte) (s : State), ∃ t, exec (.rfWReq1Hi d v) s = .next t ∧ OnlyTel s t ∧
    (∀ j : SlotId, t.requestedAt j =
      if j.val = 2 * d.val + 1 then BitVec.ofNat 16 (v.toNat * 256 + (s.devAt d).stage.toNat)
      else s.requestedAt j) ∧
    t.tel.rpmUpdateRequested = (if d = 6 then true else s.tel.rpmUpdateRequested) ∧
    t.tel.enabled = s.tel.enabled ∧ t.tel.actualTach = s.tel.actualTach ∧
    t.tel.startRequested = s.tel.startRequested

/-- R222, R223: any value written to 0x3C on device 6 sets `startRequested`, on another device nothing (D17,
D19); a register without a write meaning ignores the byte (D21). -/
def Obligations.StartTriggerActsOnDevice6AndHolesIgnore : Prop :=
  ∀ (d : DevId) (r : RegAddr) (v : Byte) (s : State),
    exec (.rfWNone d r v) s = .next s ∧
    (d ≠ 6 → exec (.rfWStartTrig d v) s = .next s) ∧
    (d = 6 → ∃ t, exec (.rfWStartTrig d v) s = .next t ∧ OnlyTel s t ∧
      t.tel = { s.tel with startRequested := true })

/-- R224 to R227: the four read-back registers answer the bytes of the device's actual tach values, 0x00 where
it has no slot, and change nothing. The order of the four is D20, the slots D17; that the answer is kept in
`answer` is assumption log 7. -/
def Obligations.ActualTachReadsBackByteByByte : Prop :=
  ∀ (d : DevId) (s : State) (k : Nat) (i : Instr) (x : Byte),
    ((i = .rfRAct0Lo d ∧ k = 0) ∨ (i = .rfRAct0Hi d ∧ k = 1) ∨ (i = .rfRAct1Lo d ∧ k = 2) ∨
      (i = .rfRAct1Hi d ∧ k = 3)) →
    (∀ j : SlotId, j.val = 2 * d.val + k / 2 →
      x = BitVec.ofNat 8 (if k % 2 = 0 then (s.actualAt j).toNat % 256 else (s.actualAt j).toNat / 256)) →
    (¬(2 * d.val + k / 2 < 14) → x = 0x00) →
    exec i s = .next { s with answer := .byte x }

/-- R228: a read of any other register completes with an unspecified byte, a fresh draw each time; nothing else
changes. The draw is the model's form of `ANY8` (assumption log 6, D21). -/
def Obligations.OtherReadsAnswerAFreshUnspecifiedByte : Prop :=
  ∀ (d : DevId) (r : RegAddr) (s : State), ∃ t, exec (.rfRNone d r) s = .next t ∧
    t.answer = .byte (Config.any8 (busOf d) (s.drawsAt (busOf d))) ∧
    t.drawsAt (busOf d) = s.drawsAt (busOf d) + 1 ∧ (∀ b, b ≠ busOf d → t.drawsAt b = s.drawsAt b) ∧
    t.bus = s.bus ∧ t.dev = s.dev ∧ t.tel = s.tel ∧ t.inputs = s.inputs

/-- R215: `MemWrite` and `MemRead` perform exactly the row the table gives for the register address and the
direction, for each of the 128 addresses; "neither has any effect on `D.dstate`, `D.reg` or `D.cnt`". -/
def Obligations.RegisterAccessPerformsItsTableRow : Prop :=
  ∀ (d : DevId) (r : RegAddr) (v : Byte) (s : State),
    exec (reg7WRow d r v) s = .next (rfWrite d r v s) ∧
    exec (reg7RRow d r) s = .next { (rfRead d r s).2 with answer := .byte (rfRead d r s).1 } ∧
    (∀ d', ((rfWrite d r v s).devAt d').dstate = (s.devAt d').dstate ∧
      ((rfWrite d r v s).devAt d').reg = (s.devAt d').reg ∧
      ((rfWrite d r v s).devAt d').cnt = (s.devAt d').cnt ∧
      (rfRead d r s).2.devAt d' = s.devAt d')

/-- R237: the write path and the read path share no storage: after any register write every read-back register
of every device reads as before. -/
def Obligations.WritesDoNotShowInTheReadBackRegisters : Prop :=
  ∀ (d d' : DevId) (r r' : RegAddr) (v : Byte) (s : State), readMeaning r' = true →
    (rfRead d' r' (rfWrite d r v s)).1 = (rfRead d' r' s).1

/-! ## The main-loop port -/

/-- R232, R235, R236: a requested value is returned whole and nothing changes; each flag is returned and cleared
in one step, the other left alone. The value returned is kept in `answer` (assumption log 7). -/
def Obligations.PortReadsRequestsAndTestsAndClears : Prop :=
  ∀ (k : SlotId) (s : State),
    exec (.hostRdReq k) s = .next { s with answer := .word (s.requestedAt k) } ∧
    exec .hostTacStart s = .next { s with
      answer := .flag s.tel.startRequested, tel := { s.tel with startRequested := false } } ∧
    exec .hostTacRpm s = .next { s with
      answer := .flag s.tel.rpmUpdateRequested, tel := { s.tel with rpmUpdateRequested := false } }

/-- R233, R234: the port reads an enable flag and writes an actual value, one whole element (D24). -/
def Obligations.PortReadsEnablesAndWritesActuals : Prop :=
  ∀ (k : SlotId) (x : Tach) (s : State),
    exec (.hostRdEn k) s = .next { s with answer := .flag (s.enabledAt k) } ∧
    ∃ t, exec (.hostWrAct k x) s = .next t ∧ OnlyTel s t ∧
      (∀ j, t.actualAt j = if j = k then x else s.actualAt j) ∧
      t.tel = { s.tel with actualTach := t.tel.actualTach }

/-! ## The whole machine -/

/-- R48: its table is kept by every hardware step, under the table's own proviso that no stop is delivered on a bus
whose pin is driven. (Layer calls are outside the hardware, assumption log 2.) -/
def Obligations.StepKeepsThePinTable : Prop :=
  ∀ s t : State, s.PinsOk → s.hardwareNext → s.noStopWhileDriving → step s = .next t → t.PinsOk

/-- R253, R23, R189: every hardware step keeps the addresses that reach the router matching, the bit counters
at most 8 (below 8 while bits are shifted), and the count of a running block at least 1. -/
def Obligations.StepKeepsAddressesAndCounters : Prop :=
  ∀ s t : State, s.hardwareNext → step s = .next t →
    (s.AddrOk → t.AddrOk) ∧ (s.CountsOk → t.CountsOk)

/-- R136: `WAIT_STOP` is left only by a delivered stop (or reset), to `IDLE`; it is entered only from `ADDRESS`
on a mismatch and from `READ_ACK` after the last byte. -/
def Obligations.WaitStopIsLeftOnlyByAStop : Prop :=
  ∀ (s t : State) (b : BusId), s.hardwareNext → step s = .next t →
    ((s.busAt b).state = .waitStop → (t.busAt b).state ≠ .waitStop →
      (t.busAt b).state = .idle ∧
      ((∃ rest, s.inputs = .event b .data true true :: rest ∧ (s.busAt b).sdaMon ≠ .off) ∨
        ∃ rest, s.inputs = .reset :: rest)) ∧
    ((s.busAt b).state ≠ .waitStop → (t.busAt b).state = .waitStop →
      (s.busAt b).state = .address ∧ matchAddr (addr7 (t.busAt b).addr) = false ∨
      (s.busAt b).state = .readAck ∧ (s.busAt b).last = true)

/-- R185: a device leaves `INVALID` only by the bus-stopped callback for it (or reset), and to `IDLE`. -/
def Obligations.InvalidDeviceWaitsForItsStop : Prop :=
  ∀ (s t : State) (d : DevId), s.hardwareNext → step s = .next t →
    (s.devAt d).dstate = .invalid → (t.devAt d).dstate ≠ .invalid →
    (t.devAt d).dstate = .idle ∧
    ((∃ b rest, s.inputs = .event b .data true true :: rest ∧ (s.busAt b).sdaMon ≠ .off ∧
        (s.busAt b).maddrValid = true ∧ route b (s.busAt b).maddr = .dev d) ∨
      ∃ rest, s.inputs = .reset :: rest)

/-- R264, R221, R222: a hardware step raises a request flag only by acknowledging a byte written on bus 1 to
device 6, at 7-bit address 0x51, with its register at 0x2D or 0x3C (D17, D19); the premise is the invariant
that addresses reaching the router match. -/
def Obligations.FlagsRiseOnlyThroughThePrivilegedDevice : Prop :=
  ∀ (s t : State) (r : RegAddr), s.AddrOk → s.hardwareNext → step s = .next t →
    ((r = 0x2D#7 ∧ s.tel.rpmUpdateRequested = false ∧ t.tel.rpmUpdateRequested = true) ∨
      (r = 0x3C#7 ∧ s.tel.startRequested = false ∧ t.tel.startRequested = true)) →
    (∃ scl sda rest, s.inputs = .event 1 .clock scl sda :: rest) ∧
    (s.busAt 1).state = .writeAck ∧ addr7 (s.busAt 1).addr = 0x51#7 ∧ (s.devAt 6).reg = r ∧
    ((s.devAt 6).dstate = .single ∨ (s.devAt 6).dstate = .blockRw)

/-- R40, R234: only the main loop's write and reset change an actual tach value (D24). -/
def Obligations.ActualTachIsWrittenOnlyByTheMainLoop : Prop :=
  ∀ s t : State, s.hardwareNext → step s = .next t → t.tel.actualTach ≠ s.tel.actualTach →
    (∃ rest, s.inputs = .reset :: rest) ∨
    ∃ frame k x rest, s.inputs = .call frame :: rest ∧ decode frame = .ok (.hostWrAct k x) ∧
      t.actualAt k = x ∧ ∀ j, j ≠ k → t.actualAt j = s.actualAt j

/-- R72: a step of decoder b writes only its own side (bus[b], its four devices, their slots, on bus 1 the two
flags); the premise is the invariant that addresses reaching the router match (R176). Slots are D17. That a draw
of `ANY8` is counted on the side of one bus is the model's choice (assumption log 6), not R72's. -/
def Obligations.DecoderWritesOnlyItsOwnSide : Prop :=
  ∀ (s t : State) (b : BusId) (line : Line) (scl sda : Bool) (rest : List Input), s.AddrOk →
    s.inputs = .event b line scl sda :: rest → step s = .next t → OnlySide b { s with inputs := rest } t

/-- R72: a step of decoder b reads only its own side: two states that agree there agree there after the same
event, however they differ elsewhere. Slots are D17. Where the step draws `ANY8` this rests on the model's choice to
count the draws per bus (assumption log 6); R72 does not speak of them. -/
def Obligations.DecoderReadsOnlyItsOwnSide : Prop :=
  ∀ (s s' t t' : State) (b : BusId) (line : Line) (scl sda : Bool) (rest rest' : List Input), s.AddrOk →
    s.inputs = .event b line scl sda :: rest → s'.inputs = .event b line scl sda :: rest' →
    SameSide b s s' → step s = .next t → step s' = .next t' → SameSide b t t'

/-- R72: "any two steps of different decoders commute": two events of different buses taken in either order
come to the same state. That this holds of the bytes drawn as `ANY8` too is not R72's but the model's choice to count
the draws per bus (assumption log 6). Slots are D17. -/
def Obligations.DecodersCommute : Prop :=
  ∀ (s : State) (l0 l1 : Line) (c0 d0 c1 d1 : Bool) (rest : List Input), s.AddrOk →
    Host.Core.run Sys2Proof.core 2
        { s with inputs := .event 0 l0 c0 d0 :: .event 1 l1 c1 d1 :: rest } =
      Host.Core.run Sys2Proof.core 2
        { s with inputs := .event 1 l1 c1 d1 :: .event 0 l0 c0 d0 :: rest }

/-! ## The pin contract -/

/-- R48 with R137 and R138: under the pin contract (D3) every change a master makes keeps R48's table, with no
proviso: no stop is reported while the block drives the wire. -/
def Obligations.PinContractKeepsThePinTable : Prop :=
  ∀ (p q : PinState) (b : BusId) (c : Change),
    p.block.PinsOk → p.drive b c = .next q → q.block.PinsOk

/-- R297: "No pin action of the block happens while the clock is high": an event that reports the clock high
leaves the block's pull on the wire as it was. -/
def Obligations.PinActionsHappenWhileTheClockIsLow : Prop :=
  ∀ (s t : State) (b : BusId) (line : Line) (sda : Bool) (rest : List Input), s.PinsOk →
    s.inputs = .event b line true sda :: rest → step s = .next t →
    sdaOe (t.busAt b) = sdaOe (s.busAt b) ∧ sdaO (t.busAt b) = sdaO (s.busAt b)
end

