-- ==== Sys2Proof/Laws/State.lean ====
section
/-! SUPPORT. One lemma per field per update of the state, so that no later proof unfolds a record
update. -/

namespace Sys2Proof.Machine

/-! ## Access -/

@[simp] theorem busAt_modBus_self (s : State) (b : BusId) (f : BusCtx → BusCtx) :
    (s.modBus b f).busAt b = f (s.busAt b) := by
  simp [State.modBus, State.busAt]

theorem busAt_modBus_of_ne (s : State) {b b' : BusId} (f : BusCtx → BusCtx) (h : b' ≠ b) :
    (s.modBus b f).busAt b' = s.busAt b' := by
  have h' : (b : Nat) ≠ (b' : Nat) := fun e => h (Fin.ext e.symm)
  simp [State.modBus, State.busAt, h']

@[simp] theorem devAt_modDev_self (s : State) (d : DevId) (f : DevCtx → DevCtx) :
    (s.modDev d f).devAt d = f (s.devAt d) := by
  simp [State.modDev, State.devAt]

theorem devAt_modDev_of_ne (s : State) {d d' : DevId} (f : DevCtx → DevCtx) (h : d' ≠ d) :
    (s.modDev d f).devAt d' = s.devAt d' := by
  have h' : (d : Nat) ≠ (d' : Nat) := fun e => h (Fin.ext e.symm)
  simp [State.modDev, State.devAt, h']

/-- Two updates of one bus context are one. -/
@[simp] theorem modBus_modBus (s : State) (b : BusId) (f g : BusCtx → BusCtx) :
    (s.modBus b f).modBus b g = s.modBus b fun B => g (f B) := by
  simp [State.modBus, State.busAt]

/-- Two updates of one device context are one. -/
@[simp] theorem modDev_modDev (s : State) (d : DevId) (f g : DevCtx → DevCtx) :
    (s.modDev d f).modDev d g = s.modDev d fun D => g (f D) := by
  simp [State.modDev, State.devAt]

/-- An update of a bus context and one of a device context commute. -/
theorem modBus_modDev (s : State) (b : BusId) (d : DevId) (f : BusCtx → BusCtx) (g : DevCtx → DevCtx) :
    (s.modBus b f).modDev d g = (s.modDev d g).modBus b f := rfl

/-- Only the image of the context that is there matters. -/
theorem modBus_congr {s : State} {b : BusId} {f g : BusCtx → BusCtx} (h : f (s.busAt b) = g (s.busAt b)) :
    s.modBus b f = s.modBus b g := by
  simp only [State.modBus, h]

/-- An update that changes nothing. -/
theorem modBus_id (s : State) (b : BusId) : s.modBus b (fun B => B) = s := by
  simp [State.modBus, State.busAt]

/-- Equal bus contexts everywhere are equal vectors. -/
theorem bus_eq_of_busAt {s t : State} (h : ∀ b, t.busAt b = s.busAt b) : t.bus = s.bus := by
  apply Vector.ext
  intro i hi
  exact h ⟨i, hi⟩

/-- Equal device contexts everywhere are equal vectors. -/
theorem dev_eq_of_devAt {s t : State} (h : ∀ d, t.devAt d = s.devAt d) : t.dev = s.dev := by
  apply Vector.ext
  intro i hi
  exact h ⟨i, hi⟩

/-! ## modBus -/

@[simp] theorem modBus_dev (s : State) (b : BusId) (f : BusCtx → BusCtx) : (s.modBus b f).dev = s.dev := rfl

@[simp] theorem modBus_tel (s : State) (b : BusId) (f : BusCtx → BusCtx) : (s.modBus b f).tel = s.tel := rfl

@[simp] theorem modBus_inputs (s : State) (b : BusId) (f : BusCtx → BusCtx) : (s.modBus b f).inputs = s.inputs := rfl

@[simp] theorem modBus_answer (s : State) (b : BusId) (f : BusCtx → BusCtx) : (s.modBus b f).answer = s.answer := rfl

@[simp] theorem modBus_draws (s : State) (b : BusId) (f : BusCtx → BusCtx) : (s.modBus b f).draws = s.draws := rfl

@[simp] theorem modBus_devAt (s : State) (b : BusId) (f : BusCtx → BusCtx) (d' : DevId) : (s.modBus b f).devAt d' = s.devAt d' := rfl

/-! ## modDev -/

@[simp] theorem modDev_bus (s : State) (d : DevId) (f : DevCtx → DevCtx) : (s.modDev d f).bus = s.bus := rfl

@[simp] theorem modDev_tel (s : State) (d : DevId) (f : DevCtx → DevCtx) : (s.modDev d f).tel = s.tel := rfl

@[simp] theorem modDev_inputs (s : State) (d : DevId) (f : DevCtx → DevCtx) : (s.modDev d f).inputs = s.inputs := rfl

@[simp] theorem modDev_answer (s : State) (d : DevId) (f : DevCtx → DevCtx) : (s.modDev d f).answer = s.answer := rfl

@[simp] theorem modDev_draws (s : State) (d : DevId) (f : DevCtx → DevCtx) : (s.modDev d f).draws = s.draws := rfl

@[simp] theorem modDev_busAt (s : State) (d : DevId) (f : DevCtx → DevCtx) (b' : BusId) : (s.modDev d f).busAt b' = s.busAt b' := rfl

/-! ## answering -/

@[simp] theorem answering_bus (s : State) (a : Answer) : (s.answering a).bus = s.bus := rfl

@[simp] theorem answering_dev (s : State) (a : Answer) : (s.answering a).dev = s.dev := rfl

@[simp] theorem answering_tel (s : State) (a : Answer) : (s.answering a).tel = s.tel := rfl

@[simp] theorem answering_inputs (s : State) (a : Answer) : (s.answering a).inputs = s.inputs := rfl

@[simp] theorem answering_draws (s : State) (a : Answer) : (s.answering a).draws = s.draws := rfl

@[simp] theorem answering_busAt (s : State) (a : Answer) (b' : BusId) : (s.answering a).busAt b' = s.busAt b' := rfl

@[simp] theorem answering_devAt (s : State) (a : Answer) (d' : DevId) : (s.answering a).devAt d' = s.devAt d' := rfl

@[simp] theorem answering_answer (s : State) (a : Answer) : (s.answering a).answer = a := rfl

/-! ## setStart -/

@[simp] theorem setStart_bus (s : State) (v : Bool) : (s.setStart v).bus = s.bus := rfl

@[simp] theorem setStart_dev (s : State) (v : Bool) : (s.setStart v).dev = s.dev := rfl

@[simp] theorem setStart_inputs (s : State) (v : Bool) : (s.setStart v).inputs = s.inputs := rfl

@[simp] theorem setStart_answer (s : State) (v : Bool) : (s.setStart v).answer = s.answer := rfl

@[simp] theorem setStart_draws (s : State) (v : Bool) : (s.setStart v).draws = s.draws := rfl

@[simp] theorem setStart_busAt (s : State) (v : Bool) (b' : BusId) : (s.setStart v).busAt b' = s.busAt b' := rfl

@[simp] theorem setStart_devAt (s : State) (v : Bool) (d' : DevId) : (s.setStart v).devAt d' = s.devAt d' := rfl

/-! ## setRpm -/

@[simp] theorem setRpm_bus (s : State) (v : Bool) : (s.setRpm v).bus = s.bus := rfl

@[simp] theorem setRpm_dev (s : State) (v : Bool) : (s.setRpm v).dev = s.dev := rfl

@[simp] theorem setRpm_inputs (s : State) (v : Bool) : (s.setRpm v).inputs = s.inputs := rfl

@[simp] theorem setRpm_answer (s : State) (v : Bool) : (s.setRpm v).answer = s.answer := rfl

@[simp] theorem setRpm_draws (s : State) (v : Bool) : (s.setRpm v).draws = s.draws := rfl

@[simp] theorem setRpm_busAt (s : State) (v : Bool) (b' : BusId) : (s.setRpm v).busAt b' = s.busAt b' := rfl

@[simp] theorem setRpm_devAt (s : State) (v : Bool) (d' : DevId) : (s.setRpm v).devAt d' = s.devAt d' := rfl

/-! ## writeActual -/

@[simp] theorem writeActual_bus (s : State) (i : SlotId) (x : Tach) : (s.writeActual i x).bus = s.bus := rfl

@[simp] theorem writeActual_dev (s : State) (i : SlotId) (x : Tach) : (s.writeActual i x).dev = s.dev := rfl

@[simp] theorem writeActual_inputs (s : State) (i : SlotId) (x : Tach) : (s.writeActual i x).inputs = s.inputs := rfl

@[simp] theorem writeActual_answer (s : State) (i : SlotId) (x : Tach) : (s.writeActual i x).answer = s.answer := rfl

@[simp] theorem writeActual_draws (s : State) (i : SlotId) (x : Tach) : (s.writeActual i x).draws = s.draws := rfl

@[simp] theorem writeActual_busAt (s : State) (i : SlotId) (x : Tach) (b' : BusId) : (s.writeActual i x).busAt b' = s.busAt b' := rfl

@[simp] theorem writeActual_devAt (s : State) (i : SlotId) (x : Tach) (d' : DevId) : (s.writeActual i x).devAt d' = s.devAt d' := rfl

/-! ## drawAny8 -/

@[simp] theorem drawAny8_bus (s : State) (b : BusId) : ((s.drawAny8 b).2).bus = s.bus := rfl

@[simp] theorem drawAny8_dev (s : State) (b : BusId) : ((s.drawAny8 b).2).dev = s.dev := rfl

@[simp] theorem drawAny8_tel (s : State) (b : BusId) : ((s.drawAny8 b).2).tel = s.tel := rfl

@[simp] theorem drawAny8_inputs (s : State) (b : BusId) : ((s.drawAny8 b).2).inputs = s.inputs := rfl

@[simp] theorem drawAny8_answer (s : State) (b : BusId) : ((s.drawAny8 b).2).answer = s.answer := rfl

@[simp] theorem drawAny8_busAt (s : State) (b : BusId) (b' : BusId) : ((s.drawAny8 b).2).busAt b' = s.busAt b' := rfl

@[simp] theorem drawAny8_devAt (s : State) (b : BusId) (d' : DevId) : ((s.drawAny8 b).2).devAt d' = s.devAt d' := rfl

@[simp] theorem setStart_enabled (s : State) (v : Bool) : (s.setStart v).tel.enabled = s.tel.enabled := rfl

@[simp] theorem setStart_requestedTach (s : State) (v : Bool) : (s.setStart v).tel.requestedTach = s.tel.requestedTach := rfl

@[simp] theorem setStart_actualTach (s : State) (v : Bool) : (s.setStart v).tel.actualTach = s.tel.actualTach := rfl

@[simp] theorem setStart_startRequested (s : State) (v : Bool) : (s.setStart v).tel.startRequested = v := rfl

@[simp] theorem setStart_rpmUpdateRequested (s : State) (v : Bool) : (s.setStart v).tel.rpmUpdateRequested = s.tel.rpmUpdateRequested := rfl

@[simp] theorem setRpm_enabled (s : State) (v : Bool) : (s.setRpm v).tel.enabled = s.tel.enabled := rfl

@[simp] theorem setRpm_requestedTach (s : State) (v : Bool) : (s.setRpm v).tel.requestedTach = s.tel.requestedTach := rfl

@[simp] theorem setRpm_actualTach (s : State) (v : Bool) : (s.setRpm v).tel.actualTach = s.tel.actualTach := rfl

@[simp] theorem setRpm_startRequested (s : State) (v : Bool) : (s.setRpm v).tel.startRequested = s.tel.startRequested := rfl

@[simp] theorem setRpm_rpmUpdateRequested (s : State) (v : Bool) : (s.setRpm v).tel.rpmUpdateRequested = v := rfl

@[simp] theorem writeActual_enabled (s : State) (i : SlotId) (x : Tach) : (s.writeActual i x).tel.enabled = s.tel.enabled := rfl

@[simp] theorem writeActual_requestedTach (s : State) (i : SlotId) (x : Tach) : (s.writeActual i x).tel.requestedTach = s.tel.requestedTach := rfl

@[simp] theorem writeActual_startRequested (s : State) (i : SlotId) (x : Tach) : (s.writeActual i x).tel.startRequested = s.tel.startRequested := rfl

@[simp] theorem writeActual_rpmUpdateRequested (s : State) (i : SlotId) (x : Tach) : (s.writeActual i x).tel.rpmUpdateRequested = s.tel.rpmUpdateRequested := rfl

@[simp] theorem writeActual_self (s : State) (i : SlotId) (x : Tach) :
    (s.writeActual i x).actualAt i = x := by
  simp [State.writeActual, State.actualAt]

theorem writeActual_of_ne (s : State) {i j : SlotId} (x : Tach) (h : j ≠ i) :
    (s.writeActual i x).actualAt j = s.actualAt j := by
  have h' : (i : Nat) ≠ (j : Nat) := fun e => h (Fin.ext e.symm)
  simp [State.writeActual, State.actualAt, h']

/-! ## writeEnabled -/

@[simp] theorem writeEnabled_bus (s : State) (i : Nat) (x : Bool) : (s.writeEnabled i x).bus = s.bus := by
  unfold State.writeEnabled; split <;> rfl

@[simp] theorem writeEnabled_dev (s : State) (i : Nat) (x : Bool) : (s.writeEnabled i x).dev = s.dev := by
  unfold State.writeEnabled; split <;> rfl

@[simp] theorem writeEnabled_inputs (s : State) (i : Nat) (x : Bool) : (s.writeEnabled i x).inputs = s.inputs := by
  unfold State.writeEnabled; split <;> rfl

@[simp] theorem writeEnabled_answer (s : State) (i : Nat) (x : Bool) : (s.writeEnabled i x).answer = s.answer := by
  unfold State.writeEnabled; split <;> rfl

@[simp] theorem writeEnabled_draws (s : State) (i : Nat) (x : Bool) : (s.writeEnabled i x).draws = s.draws := by
  unfold State.writeEnabled; split <;> rfl

@[simp] theorem writeEnabled_busAt (s : State) (i : Nat) (x : Bool) (b' : BusId) : (s.writeEnabled i x).busAt b' = s.busAt b' := by
  simp [State.busAt]

@[simp] theorem writeEnabled_devAt (s : State) (i : Nat) (x : Bool) (d' : DevId) : (s.writeEnabled i x).devAt d' = s.devAt d' := by
  simp [State.devAt]

@[simp] theorem writeEnabled_requestedTach (s : State) (i : Nat) (x : Bool) : (s.writeEnabled i x).tel.requestedTach = s.tel.requestedTach := by
  unfold State.writeEnabled; split <;> rfl

@[simp] theorem writeEnabled_actualTach (s : State) (i : Nat) (x : Bool) : (s.writeEnabled i x).tel.actualTach = s.tel.actualTach := by
  unfold State.writeEnabled; split <;> rfl

@[simp] theorem writeEnabled_startRequested (s : State) (i : Nat) (x : Bool) : (s.writeEnabled i x).tel.startRequested = s.tel.startRequested := by
  unfold State.writeEnabled; split <;> rfl

@[simp] theorem writeEnabled_rpmUpdateRequested (s : State) (i : Nat) (x : Bool) : (s.writeEnabled i x).tel.rpmUpdateRequested = s.tel.rpmUpdateRequested := by
  unfold State.writeEnabled; split <;> rfl

/-- The element of slot `j` after a write to slot `i`; a slot that does not exist is not written. -/
theorem writeEnabled_get (s : State) (i : Nat) (x : Bool) (j : SlotId) :
    (s.writeEnabled i x).enabledAt j = if i = j.val then x else s.enabledAt j := by
  unfold State.enabledAt State.writeEnabled
  split
  · simp [Vector.getElem_set]
  · rename_i h
    have hj := j.isLt
    have : i ≠ j.val := fun e => h (show i < 14 by omega)
    simp [this]

/-! ## writeRequested -/

@[simp] theorem writeRequested_bus (s : State) (i : Nat) (x : Tach) : (s.writeRequested i x).bus = s.bus := by
  unfold State.writeRequested; split <;> rfl

@[simp] theorem writeRequested_dev (s : State) (i : Nat) (x : Tach) : (s.writeRequested i x).dev = s.dev := by
  unfold State.writeRequested; split <;> rfl

@[simp] theorem writeRequested_inputs (s : State) (i : Nat) (x : Tach) : (s.writeRequested i x).inputs = s.inputs := by
  unfold State.writeRequested; split <;> rfl

@[simp] theorem writeRequested_answer (s : State) (i : Nat) (x : Tach) : (s.writeRequested i x).answer = s.answer := by
  unfold State.writeRequested; split <;> rfl

@[simp] theorem writeRequested_draws (s : State) (i : Nat) (x : Tach) : (s.writeRequested i x).draws = s.draws := by
  unfold State.writeRequested; split <;> rfl

@[simp] theorem writeRequested_busAt (s : State) (i : Nat) (x : Tach) (b' : BusId) : (s.writeRequested i x).busAt b' = s.busAt b' := by
  simp [State.busAt]

@[simp] theorem writeRequested_devAt (s : State) (i : Nat) (x : Tach) (d' : DevId) : (s.writeRequested i x).devAt d' = s.devAt d' := by
  simp [State.devAt]

@[simp] theorem writeRequested_enabled (s : State) (i : Nat) (x : Tach) : (s.writeRequested i x).tel.enabled = s.tel.enabled := by
  unfold State.writeRequested; split <;> rfl

@[simp] theorem writeRequested_actualTach (s : State) (i : Nat) (x : Tach) : (s.writeRequested i x).tel.actualTach = s.tel.actualTach := by
  unfold State.writeRequested; split <;> rfl

@[simp] theorem writeRequested_startRequested (s : State) (i : Nat) (x : Tach) : (s.writeRequested i x).tel.startRequested = s.tel.startRequested := by
  unfold State.writeRequested; split <;> rfl

@[simp] theorem writeRequested_rpmUpdateRequested (s : State) (i : Nat) (x : Tach) : (s.writeRequested i x).tel.rpmUpdateRequested = s.tel.rpmUpdateRequested := by
  unfold State.writeRequested; split <;> rfl

/-- The element of slot `j` after a write to slot `i`; a slot that does not exist is not written. -/
theorem writeRequested_get (s : State) (i : Nat) (x : Tach) (j : SlotId) :
    (s.writeRequested i x).requestedAt j = if i = j.val then x else s.requestedAt j := by
  unfold State.requestedAt State.writeRequested
  split
  · simp [Vector.getElem_set]
  · rename_i h
    have hj := j.isLt
    have : i ≠ j.val := fun e => h (show i < 14 by omega)
    simp [this]

/-! ## Telemetry elements and draws under the updates that leave them alone -/

@[simp] theorem modBus_enabledAt (s : State) (b : BusId) (f : BusCtx → BusCtx) (j : SlotId) : (s.modBus b f).enabledAt j = s.enabledAt j := rfl

@[simp] theorem modBus_requestedAt (s : State) (b : BusId) (f : BusCtx → BusCtx) (j : SlotId) : (s.modBus b f).requestedAt j = s.requestedAt j := rfl

@[simp] theorem modBus_actualAt (s : State) (b : BusId) (f : BusCtx → BusCtx) (j : SlotId) : (s.modBus b f).actualAt j = s.actualAt j := rfl

@[simp] theorem modBus_drawsAt (s : State) (b : BusId) (f : BusCtx → BusCtx) (c : BusId) : (s.modBus b f).drawsAt c = s.drawsAt c := rfl

@[simp] theorem modDev_enabledAt (s : State) (d : DevId) (f : DevCtx → DevCtx) (j : SlotId) : (s.modDev d f).enabledAt j = s.enabledAt j := rfl

@[simp] theorem modDev_requestedAt (s : State) (d : DevId) (f : DevCtx → DevCtx) (j : SlotId) : (s.modDev d f).requestedAt j = s.requestedAt j := rfl

@[simp] theorem modDev_actualAt (s : State) (d : DevId) (f : DevCtx → DevCtx) (j : SlotId) : (s.modDev d f).actualAt j = s.actualAt j := rfl

@[simp] theorem modDev_drawsAt (s : State) (d : DevId) (f : DevCtx → DevCtx) (c : BusId) : (s.modDev d f).drawsAt c = s.drawsAt c := rfl

@[simp] theorem answering_enabledAt (s : State) (a : Answer) (j : SlotId) : (s.answering a).enabledAt j = s.enabledAt j := rfl

@[simp] theorem answering_requestedAt (s : State) (a : Answer) (j : SlotId) : (s.answering a).requestedAt j = s.requestedAt j := rfl

@[simp] theorem answering_actualAt (s : State) (a : Answer) (j : SlotId) : (s.answering a).actualAt j = s.actualAt j := rfl

@[simp] theorem answering_drawsAt (s : State) (a : Answer) (c : BusId) : (s.answering a).drawsAt c = s.drawsAt c := rfl

@[simp] theorem setStart_enabledAt (s : State) (v : Bool) (j : SlotId) : (s.setStart v).enabledAt j = s.enabledAt j := rfl

@[simp] theorem setStart_requestedAt (s : State) (v : Bool) (j : SlotId) : (s.setStart v).requestedAt j = s.requestedAt j := rfl

@[simp] theorem setStart_actualAt (s : State) (v : Bool) (j : SlotId) : (s.setStart v).actualAt j = s.actualAt j := rfl

@[simp] theorem setStart_drawsAt (s : State) (v : Bool) (c : BusId) : (s.setStart v).drawsAt c = s.drawsAt c := rfl

@[simp] theorem setRpm_enabledAt (s : State) (v : Bool) (j : SlotId) : (s.setRpm v).enabledAt j = s.enabledAt j := rfl

@[simp] theorem setRpm_requestedAt (s : State) (v : Bool) (j : SlotId) : (s.setRpm v).requestedAt j = s.requestedAt j := rfl

@[simp] theorem setRpm_actualAt (s : State) (v : Bool) (j : SlotId) : (s.setRpm v).actualAt j = s.actualAt j := rfl

@[simp] theorem setRpm_drawsAt (s : State) (v : Bool) (c : BusId) : (s.setRpm v).drawsAt c = s.drawsAt c := rfl

@[simp] theorem writeActual_enabledAt (s : State) (i : SlotId) (x : Tach) (j : SlotId) : (s.writeActual i x).enabledAt j = s.enabledAt j := rfl

@[simp] theorem writeActual_requestedAt (s : State) (i : SlotId) (x : Tach) (j : SlotId) : (s.writeActual i x).requestedAt j = s.requestedAt j := rfl

@[simp] theorem writeActual_drawsAt (s : State) (i : SlotId) (x : Tach) (c : BusId) : (s.writeActual i x).drawsAt c = s.drawsAt c := rfl

@[simp] theorem drawAny8_enabledAt (s : State) (b : BusId) (j : SlotId) : ((s.drawAny8 b).2).enabledAt j = s.enabledAt j := rfl

@[simp] theorem drawAny8_requestedAt (s : State) (b : BusId) (j : SlotId) : ((s.drawAny8 b).2).requestedAt j = s.requestedAt j := rfl

@[simp] theorem drawAny8_actualAt (s : State) (b : BusId) (j : SlotId) : ((s.drawAny8 b).2).actualAt j = s.actualAt j := rfl

@[simp] theorem writeEnabled_requestedAt (s : State) (i : Nat) (x : Bool) (j : SlotId) : (s.writeEnabled i x).requestedAt j = s.requestedAt j := by
  simp [State.requestedAt]

@[simp] theorem writeEnabled_actualAt (s : State) (i : Nat) (x : Bool) (j : SlotId) : (s.writeEnabled i x).actualAt j = s.actualAt j := by
  simp [State.actualAt]

@[simp] theorem writeEnabled_drawsAt (s : State) (i : Nat) (x : Bool) (c : BusId) : (s.writeEnabled i x).drawsAt c = s.drawsAt c := by
  simp [State.drawsAt]

@[simp] theorem writeRequested_enabledAt (s : State) (i : Nat) (x : Tach) (j : SlotId) : (s.writeRequested i x).enabledAt j = s.enabledAt j := by
  simp [State.enabledAt]

@[simp] theorem writeRequested_actualAt (s : State) (i : Nat) (x : Tach) (j : SlotId) : (s.writeRequested i x).actualAt j = s.actualAt j := by
  simp [State.actualAt]

@[simp] theorem writeRequested_drawsAt (s : State) (i : Nat) (x : Tach) (c : BusId) : (s.writeRequested i x).drawsAt c = s.drawsAt c := by
  simp [State.drawsAt]

/-! ## Drawing and dropping -/

@[simp] theorem drop_eq (s : State) (a : Anomaly) : s.drop a = s := rfl

@[simp] theorem drawAny8_drawsAt_self (s : State) (b : BusId) : (s.drawAny8 b).2.drawsAt b = s.drawsAt b + 1 := by
  simp [State.drawAny8, State.drawsAt]

theorem drawAny8_drawsAt_of_ne (s : State) {b b' : BusId} (h : b' ≠ b) :
    (s.drawAny8 b).2.drawsAt b' = s.drawsAt b' := by
  have h' : (b : Nat) ≠ (b' : Nat) := fun e => h (Fin.ext e.symm)
  simp [State.drawAny8, State.drawsAt, h']

end Sys2Proof.Machine
end

