-- ==== Sys2Proof/Laws/Registers.lean ====
section
/-! SUPPORT. What the register file can do, said once: `DevEffect d` bounds everything an operation of
device `d` may change (spec/20_memory.md R72, spec/60_exceptions.md R265); one elimination lemma per dispatch. -/

namespace Sys2Proof.Machine

/-- Everything an operation on device `d` may change: `dev[d]`, the requested and enabled elements of its
two slots, the draws of its bus, and on `PRIV_DEV` the two flags. -/
structure DevEffect (d : DevId) (s t : State) : Prop where
  bus : t.bus = s.bus
  otherDev : ∀ d', d' ≠ d → t.devAt d' = s.devAt d'
  enabled : ∀ j : SlotId, j.val ≠ slot0 d → j.val ≠ slot1 d → t.enabledAt j = s.enabledAt j
  requested : ∀ j : SlotId, j.val ≠ slot0 d → j.val ≠ slot1 d →
    t.requestedAt j = s.requestedAt j
  actual : t.tel.actualTach = s.tel.actualTach
  start : d ≠ Config.privDev → t.tel.startRequested = s.tel.startRequested
  rpm : d ≠ Config.privDev → t.tel.rpmUpdateRequested = s.tel.rpmUpdateRequested
  inputs : t.inputs = s.inputs
  answer : t.answer = s.answer
  draws : ∀ b, b ≠ busOf d → t.drawsAt b = s.drawsAt b

theorem DevEffect.refl (d : DevId) (s : State) : DevEffect d s s := by
  constructor <;> intros <;> rfl

theorem DevEffect.trans {d : DevId} {s t u : State} (h : DevEffect d s t) (k : DevEffect d t u) :
    DevEffect d s u where
  bus := k.bus.trans h.bus
  otherDev d' hd := (k.otherDev d' hd).trans (h.otherDev d' hd)
  enabled j h0 h1 := (k.enabled j h0 h1).trans (h.enabled j h0 h1)
  requested j h0 h1 := (k.requested j h0 h1).trans (h.requested j h0 h1)
  actual := k.actual.trans h.actual
  start hd := (k.start hd).trans (h.start hd)
  rpm hd := (k.rpm hd).trans (h.rpm hd)
  inputs := k.inputs.trans h.inputs
  answer := k.answer.trans h.answer
  draws b hb := (k.draws b hb).trans (h.draws b hb)

theorem modDev_effect (d : DevId) (f : DevCtx → DevCtx) (s : State) : DevEffect d s (s.modDev d f) := by
  constructor <;> intros <;> first | rfl | exact devAt_modDev_of_ne s f ‹_›

theorem writeEnabled_effect {d : DevId} {i : Nat} (hi : i = slot0 d ∨ i = slot1 d) (v : Bool) (s : State) :
    DevEffect d s (s.writeEnabled i v) := by
  constructor <;> intros <;> try simp
  rw [writeEnabled_get, if_neg (by omega)]

theorem writeRequested_effect {d : DevId} {i : Nat} (hi : i = slot0 d ∨ i = slot1 d) (x : Tach) (s : State) :
    DevEffect d s (s.writeRequested i x) := by
  constructor <;> intros <;> try simp
  rw [writeRequested_get, if_neg (by omega)]

theorem drawAny8_effect (d : DevId) (s : State) : DevEffect d s (s.drawAny8 (busOf d)).2 := by
  constructor <;> intros <;> first | rfl | exact drawAny8_drawsAt_of_ne s ‹_›

theorem setStart_effect (s : State) (v : Bool) : DevEffect Config.privDev s (s.setStart v) := by
  constructor <;> intros <;> first | rfl | contradiction

theorem setRpm_effect (s : State) (v : Bool) : DevEffect Config.privDev s (s.setRpm v) := by
  constructor <;> intros <;> first | rfl | contradiction

/-- What holds of each write row holds of every write: one premise for each of R216 to R222, named after its
register, and one for the addresses without a write meaning (R215, R223). -/
theorem rfWrite_elim {P : RegAddr → State → Prop} (d : DevId) (v : Byte) (s : State)
    (rdcnt : P 0x00 (rfWriteRdcnt d v s)) (enable : P 0x07 (rfWriteEnable d v s))
    (req0Lo : P 0x2A (rfWriteReq0Lo d v s)) (req0Hi : P 0x2B (rfWriteReq0Hi d v s))
    (req1Lo : P 0x2C (rfWriteReq1Lo d v s)) (req1Hi : P 0x2D (rfWriteReq1Hi d v s))
    (startTrig : P 0x3C (rfWriteStartTrig d v s)) (hole : ∀ r, writeMeaning r = false → P r s)
    (r : RegAddr) : P r (rfWrite d r v s) := by
  have hr := hole r
  simp only [rfWrite, writeMeaning, rfWriteNone, drop_eq] at hr ⊢
  split_ifs <;> simp_all

/-- What holds of each read row holds of every read (R215, R224 to R228). -/
theorem rfRead_elim {P : RegAddr → Byte × State → Prop} (d : DevId) (s : State)
    (act0Lo : P 0x4A (rfReadAct0Lo d s, s)) (act0Hi : P 0x4B (rfReadAct0Hi d s, s))
    (act1Lo : P 0x4C (rfReadAct1Lo d s, s)) (act1Hi : P 0x4D (rfReadAct1Hi d s, s))
    (hole : ∀ r, readMeaning r = false → P r (s.drawAny8 (busOf d))) (r : RegAddr) : P r (rfRead d r s) := by
  have hr := hole r
  simp only [rfRead, readMeaning, rfReadNone] at hr ⊢
  split_ifs <;> simp_all

/-- The combine in numbers (R231). -/
theorem combine16_toNat (hi lo : Byte) : combine16 hi lo = BitVec.ofNat 16 (hi.toNat * 256 + lo.toNat) := by
  apply BitVec.eq_of_toNat_eq
  have := hi.isLt
  have := lo.isLt
  simp only [combine16, BitVec.toNat_append, BitVec.toNat_ofNat]
  rw [Nat.shiftLeft_eq, Nat.mul_comm, ← Nat.two_pow_add_eq_or_of_lt lo.isLt]
  omega

theorem rfWriteReq1Hi_effect (d : DevId) (v : Byte) (s : State) : DevEffect d s (rfWriteReq1Hi d v s) := by
  have h := writeRequested_effect (d := d) (Or.inr rfl) (combine16 v (s.devAt d).stage) s
  by_cases hp : d = Config.privDev
  · subst hp
    exact h.trans (setRpm_effect _ _)
  · simpa [rfWriteReq1Hi, privileged, hp] using h

theorem rfWriteStartTrig_effect (d : DevId) (v : Byte) (s : State) :
    DevEffect d s (rfWriteStartTrig d v s) := by
  by_cases hp : d = Config.privDev
  · subst hp
    exact setStart_effect _ _
  · simpa [rfWriteStartTrig, privileged, hp] using DevEffect.refl d s

/-- A register write stays within its device (R264, R265). -/
theorem rfWrite_effect (d : DevId) (r : RegAddr) (v : Byte) (s : State) : DevEffect d s (rfWrite d r v s) :=
  rfWrite_elim (P := fun _ t => DevEffect d s t) d v s
    (rdcnt := modDev_effect d _ s)
    (enable := (writeEnabled_effect (Or.inl rfl) _ s).trans (writeEnabled_effect (Or.inr rfl) _ _))
    (req0Lo := modDev_effect d _ s)
    (req0Hi := writeRequested_effect (Or.inl rfl) _ s)
    (req1Lo := modDev_effect d _ s)
    (req1Hi := rfWriteReq1Hi_effect d v s)
    (startTrig := rfWriteStartTrig_effect d v s)
    (hole := fun _ _ => DevEffect.refl d s) r

/-- A register write leaves the device's state machine alone: "neither has any effect on `D.dstate`,
`D.reg` or `D.cnt`" (R215). -/
theorem rfWrite_machine (d : DevId) (r : RegAddr) (v : Byte) (s : State) :
    ((rfWrite d r v s).devAt d).dstate = (s.devAt d).dstate ∧
    ((rfWrite d r v s).devAt d).reg = (s.devAt d).reg ∧
    ((rfWrite d r v s).devAt d).cnt = (s.devAt d).cnt :=
  rfWrite_elim (P := fun _ t => (t.devAt d).dstate = (s.devAt d).dstate ∧ (t.devAt d).reg = (s.devAt d).reg ∧
      (t.devAt d).cnt = (s.devAt d).cnt) d v s
    (rdcnt := by simp [rfWriteRdcnt])
    (enable := by simp [rfWriteEnable])
    (req0Lo := by simp [rfWriteReq0Lo])
    (req0Hi := by simp [rfWriteReq0Hi])
    (req1Lo := by simp [rfWriteReq1Lo])
    (req1Hi := by simp only [rfWriteReq1Hi]; split <;> simp)
    (startTrig := by simp only [rfWriteStartTrig]; split <;> simp)
    (hole := fun _ _ => ⟨rfl, rfl, rfl⟩) r

/-- A register read leaves every device context as it was; at most a draw is counted (R66). -/
theorem rfRead_effect (d : DevId) (r : RegAddr) (s : State) :
    DevEffect d s (rfRead d r s).2 ∧ (rfRead d r s).2.dev = s.dev ∧ (rfRead d r s).2.tel = s.tel :=
  have same : DevEffect d s s ∧ s.dev = s.dev ∧ s.tel = s.tel := ⟨DevEffect.refl d s, rfl, rfl⟩
  rfRead_elim (P := fun _ x => DevEffect d s x.2 ∧ x.2.dev = s.dev ∧ x.2.tel = s.tel) d s
    (act0Lo := same) (act0Hi := same) (act1Lo := same) (act1Hi := same)
    (hole := fun _ _ => ⟨drawAny8_effect d s, rfl, rfl⟩) r

/-! ## The register file and the device's state machine -/

/-- A device context with its state machine's three fields set. -/
def setCtl (a : RegAddr) (b : Byte) (e : DevState) (D : DevCtx) : DevCtx :=
  { D with reg := a, cnt := b, dstate := e }

theorem writeEnabled_modDev (s : State) (d : DevId) (f : DevCtx → DevCtx) (i : Nat) (v : Bool) :
    (s.modDev d f).writeEnabled i v = (s.writeEnabled i v).modDev d f := by
  unfold State.writeEnabled; split <;> rfl

theorem writeRequested_modDev (s : State) (d : DevId) (f : DevCtx → DevCtx) (i : Nat) (v : Tach) :
    (s.modDev d f).writeRequested i v = (s.writeRequested i v).modDev d f := by
  unfold State.writeRequested; split <;> rfl

/-- A register write does not look at the state machine's fields. -/
theorem rfWrite_setCtl (d : DevId) (r : RegAddr) (v : Byte) (s : State) (a : RegAddr) (b : Byte)
    (e : DevState) :
    rfWrite d r v (s.modDev d (setCtl a b e)) = (rfWrite d r v s).modDev d (setCtl a b e) := by
  have h : ((s.modDev d (setCtl a b e)).devAt d).stage = (s.devAt d).stage := by rw [devAt_modDev_self]; rfl
  unfold rfWrite rfWriteEnable rfWriteReq0Hi rfWriteReq1Hi rfWriteStartTrig rfWriteRdcnt rfWriteReq0Lo rfWriteReq1Lo
  simp only [writeEnabled_modDev, writeRequested_modDev, modDev_modDev, h]
  split_ifs <;> first | rfl | (rw [modDev_modDev]; rfl)

end Sys2Proof.Machine
end

