-- ==== Sys2Proof/Laws/Devices.lean ====
section
/-! SUPPORT. What the device layer can do, said once: each entry point stays within its device
(`DevEffect`), and where the router leads an address that matches (spec/41_address_router.md R175). -/

namespace Sys2Proof.Machine

theorem devWrite_effect (d : DevId) (v : Byte) (s : State) : DevEffect d s (devWrite d v s) := by
  simp only [devWrite]
  split
  · exact modDev_effect d _ s
  · exact (rfWrite_effect d _ v s).trans (modDev_effect d _ _)
  · exact modDev_effect d _ s
  · exact (rfWrite_effect d _ v s).trans (modDev_effect d _ _)
  · exact DevEffect.refl d s

theorem devRead_effect (d : DevId) (s : State) : DevEffect d s (devRead d s).2 := by
  unfold devRead drSingleOp drBlockCountOp drBlockRwOp
  split <;> try dsimp only
  · exact DevEffect.refl d s
  · exact (rfRead_effect d _ s).1.trans (modDev_effect d _ _)
  · exact modDev_effect d _ s
  · exact (rfRead_effect d _ s).1.trans (modDev_effect d _ _)
  · exact DevEffect.refl d s

theorem devStop_effect (d : DevId) (s : State) : DevEffect d s (devStop d s) := modDev_effect d _ s

/-- A device read changes no telemetry (R66). -/
theorem devRead_tel (d : DevId) (s : State) : (devRead d s).2.tel = s.tel := by
  unfold devRead drSingleOp drBlockCountOp drBlockRwOp
  split
  · rfl
  · exact (rfRead_effect d _ s).2.2
  · rfl
  · exact (rfRead_effect d _ s).2.2
  · rfl

/-- `AUX_ADDR` is no family address (R5, R171). -/
theorem auxAddr_outside_family : Config.auxAddr < Config.devBase ∨ Config.devBase + 3#7 < Config.auxAddr := by
  unfold Config.auxAddr Config.devBase
  have h := Config.auxIndex.isLt
  split <;> simp only [BitVec.lt_def, BitVec.toNat_ofNat, BitVec.toNat_add] <;> omega

/-- Where a matching address leads: the auxiliary responder, or a device of that bus (R175). -/
theorem route_of_match {b : BusId} {a : Byte} (h : matchAddr (addr7 a) = true) :
    route b a = .aux ∨ ∃ d, route b a = .dev d ∧ busOf d = b := by
  by_cases ha : addr7 a = Config.auxAddr
  · exact .inl (by simp [route, ha])
  · right
    have hb := b.isLt
    have hf : 0x50 ≤ (addr7 a).toNat ∧ (addr7 a).toNat ≤ 0x53 := by
      simp only [matchAddr, Config.devBase, Bool.or_eq_true, Bool.and_eq_true, decide_eq_true_eq, beq_iff_eq,
        ha, or_false, BitVec.le_def] at h
      exact h
    have hi : deviceIndex b (addr7 a) = 4 * (b.val : Int) + (3 - ((addr7 a).toNat - 0x50 : Int)) := rfl
    refine ⟨⟨(deviceIndex b (addr7 a)).toNat, by omega⟩, ?_, ?_⟩
    · simp only [route, ha, if_false]
      rw [dif_pos (by omega)]
    · apply Fin.ext
      simp only [busOf]
      omega

/-- A family address leads to the device of its offset, `busId*4 + (3 - offset)` (R170, R175). -/
theorem route_family (b : BusId) (oo : BitVec 2) (rw : Bool) :
    route b (famByte oo rw) = .dev ⟨4 * b.val + (3 - oo.toNat), by omega⟩ := by
  have hb := b.isLt
  have ha : (addr7 (famByte oo rw)).toNat = 0x50 + oo.toNat ∧ oo.toNat < 4 := by
    revert oo rw; decide
  have hn : addr7 (famByte oo rw) ≠ Config.auxAddr := by
    intro h
    have := auxAddr_outside_family
    rw [← h] at this
    simp only [Config.devBase, BitVec.lt_def] at this
    have h53 : (0x50#7 + 3#7).toNat = 0x53 := rfl
    have h50 : (0x50#7).toNat = 0x50 := rfl
    omega
  have hi : deviceIndex b (addr7 (famByte oo rw)) = 4 * (b.val : Int) + (3 - ((addr7 (famByte oo rw)).toNat - 0x50 : Int)) :=
    rfl
  rw [route, if_neg hn, dif_pos (by omega)]
  congr 1
  apply Fin.ext
  show (deviceIndex b (addr7 (famByte oo rw))).toNat = 4 * b.val + (3 - oo.toNat)
  omega

/-- A written byte stays within one device of the router's choice, or does nothing. -/
theorem onByteWritten_cases (b : BusId) (a v : Byte) (s : State) :
    onByteWritten b a v s = s ∨ ∃ d, route b a = .dev d ∧ onByteWritten b a v s = devWrite d v s := by
  unfold onByteWritten
  split
  · exact .inr ⟨_, ‹_›, rfl⟩
  · exact .inl rfl
  · exact .inl rfl

/-- A stop stays within one device of the router's choice, or does nothing. -/
theorem onStop_cases (b : BusId) (a : Byte) (s : State) :
    onStop b a s = s ∨ ∃ d, route b a = .dev d ∧ onStop b a s = devStop d s := by
  unfold onStop
  split
  · exact .inr ⟨_, ‹_›, rfl⟩
  · exact .inl rfl
  · exact .inl rfl

/-- A requested byte comes from one device, from the auxiliary responder, or is a draw. -/
theorem onByteRequested_cases (b : BusId) (a : Byte) (s : State) :
    (route b a = .aux ∧ onByteRequested b a s = (⟨Config.auxSentinel, true⟩, s)) ∨
    (∃ d, route b a = .dev d ∧ onByteRequested b a s = devRead d s) ∨
    (route b a = .none ∧ onByteRequested b a s = (⟨(s.drawAny8 b).1, true⟩, (s.drawAny8 b).2)) := by
  unfold onByteRequested
  split
  · exact .inr (.inl ⟨_, ‹_›, rfl⟩)
  · exact .inl ⟨‹_›, rfl⟩
  · exact .inr (.inr ⟨‹_›, rfl⟩)

end Sys2Proof.Machine
end

