-- ==== Sys2Proof/Laws/Decoder.lean ====
section
/-! SUPPORT. What a decoder operation does through the device layer, said once: the device layer neither reads nor
writes a bus context, so each of the three operations that call it is one call and one update of the bus context
(spec/40_bus_decoder.md R122, R130, R135). -/

namespace Sys2Proof.Machine

theorem writeEnabled_modBus (s : State) (b : BusId) (f : BusCtx → BusCtx) (i : Nat) (v : Bool) :
    (s.modBus b f).writeEnabled i v = (s.writeEnabled i v).modBus b f := by
  unfold State.writeEnabled; split <;> rfl

theorem writeRequested_modBus (s : State) (b : BusId) (f : BusCtx → BusCtx) (i : Nat) (x : Tach) :
    (s.modBus b f).writeRequested i x = (s.writeRequested i x).modBus b f := by
  unfold State.writeRequested; split <;> rfl

/-- The register file does not look at a bus context. -/
theorem rfWrite_modBus (d : DevId) (r : RegAddr) (v : Byte) (s : State) (b : BusId) (f : BusCtx → BusCtx) :
    rfWrite d r v (s.modBus b f) = (rfWrite d r v s).modBus b f := by
  unfold rfWrite rfWriteEnable rfWriteReq0Hi rfWriteReq1Hi rfWriteStartTrig
  simp only [writeEnabled_modBus, writeRequested_modBus, modBus_devAt]
  split_ifs <;> rfl

theorem rfRead_modBus (d : DevId) (r : RegAddr) (s : State) (b : BusId) (f : BusCtx → BusCtx) :
    rfRead d r (s.modBus b f) = ((rfRead d r s).1, (rfRead d r s).2.modBus b f) := by
  unfold rfRead
  split_ifs <;> rfl

theorem devWrite_modBus (d : DevId) (v : Byte) (s : State) (b : BusId) (f : BusCtx → BusCtx) :
    devWrite d v (s.modBus b f) = (devWrite d v s).modBus b f := by
  unfold devWrite
  rw [modBus_devAt]
  split
  · rfl
  · unfold dwSingleOp; rw [modBus_devAt, rfWrite_modBus]; rfl
  · rfl
  · unfold dwBlockRwOp; rw [modBus_devAt, rfWrite_modBus]; rfl
  · rfl

theorem devRead_modBus (d : DevId) (s : State) (b : BusId) (f : BusCtx → BusCtx) :
    devRead d (s.modBus b f) = ((devRead d s).1, (devRead d s).2.modBus b f) := by
  unfold devRead
  rw [modBus_devAt]
  split
  · rfl
  · unfold drSingleOp; rw [modBus_devAt, rfRead_modBus]; rfl
  · rfl
  · unfold drBlockRwOp; rw [modBus_devAt, rfRead_modBus]; rfl
  · rfl

theorem onByteWritten_modBus (c : BusId) (a v : Byte) (s : State) (b : BusId) (f : BusCtx → BusCtx) :
    onByteWritten c a v (s.modBus b f) = (onByteWritten c a v s).modBus b f := by
  unfold onByteWritten
  split
  · exact devWrite_modBus _ v s b f
  · rfl
  · rfl

theorem onByteRequested_modBus (c : BusId) (a : Byte) (s : State) (b : BusId) (f : BusCtx → BusCtx) :
    onByteRequested c a (s.modBus b f) = ((onByteRequested c a s).1, (onByteRequested c a s).2.modBus b f) := by
  unfold onByteRequested
  split
  · exact devRead_modBus _ s b f
  · rfl
  · rfl

theorem onStop_modBus (c : BusId) (a : Byte) (s : State) (b : BusId) (f : BusCtx → BusCtx) :
    onStop c a (s.modBus b f) = (onStop c a s).modBus b f := by
  unfold onStop
  split <;> rfl

/-! ## The device layer does not look at the inputs still to come -/

theorem writeEnabled_withInputs (s : State) (xs : List Input) (i : Nat) (v : Bool) :
    State.writeEnabled { s with inputs := xs } i v = { s.writeEnabled i v with inputs := xs } := by
  unfold State.writeEnabled; split <;> rfl

theorem writeRequested_withInputs (s : State) (xs : List Input) (i : Nat) (x : Tach) :
    State.writeRequested { s with inputs := xs } i x = { s.writeRequested i x with inputs := xs } := by
  unfold State.writeRequested; split <;> rfl

theorem rfWrite_withInputs (d : DevId) (r : RegAddr) (v : Byte) (s : State) (xs : List Input) :
    rfWrite d r v { s with inputs := xs } = { rfWrite d r v s with inputs := xs } := by
  unfold rfWrite rfWriteEnable rfWriteReq0Hi rfWriteReq1Hi rfWriteStartTrig
  simp only [writeEnabled_withInputs, writeRequested_withInputs]
  split_ifs <;> rfl

theorem rfRead_withInputs (d : DevId) (r : RegAddr) (s : State) (xs : List Input) :
    rfRead d r { s with inputs := xs } = ((rfRead d r s).1, { (rfRead d r s).2 with inputs := xs }) := by
  unfold rfRead
  split_ifs <;> rfl

theorem devWrite_withInputs (d : DevId) (v : Byte) (s : State) (xs : List Input) :
    devWrite d v { s with inputs := xs } = { devWrite d v s with inputs := xs } := by
  have h : State.devAt { s with inputs := xs } d = s.devAt d := rfl
  unfold devWrite
  rw [h]
  split
  · rfl
  · unfold dwSingleOp; rw [h, rfWrite_withInputs]; rfl
  · rfl
  · unfold dwBlockRwOp; rw [h, rfWrite_withInputs]; rfl
  · rfl

theorem devRead_withInputs (d : DevId) (s : State) (xs : List Input) :
    devRead d { s with inputs := xs } = ((devRead d s).1, { (devRead d s).2 with inputs := xs }) := by
  have h : State.devAt { s with inputs := xs } d = s.devAt d := rfl
  unfold devRead
  rw [h]
  split
  · rfl
  · unfold drSingleOp; rw [h, rfRead_withInputs]; rfl
  · rfl
  · unfold drBlockRwOp; rw [h, rfRead_withInputs]; rfl
  · rfl

theorem onByteWritten_withInputs (b : BusId) (a v : Byte) (s : State) (xs : List Input) :
    onByteWritten b a v { s with inputs := xs } = { onByteWritten b a v s with inputs := xs } := by
  unfold onByteWritten
  split
  · exact devWrite_withInputs _ v s xs
  · rfl
  · rfl

theorem onByteRequested_withInputs (b : BusId) (a : Byte) (s : State) (xs : List Input) :
    onByteRequested b a { s with inputs := xs } =
      ((onByteRequested b a s).1, { (onByteRequested b a s).2 with inputs := xs }) := by
  unfold onByteRequested
  split
  · exact devRead_withInputs _ s xs
  · rfl
  · rfl

/-! ## What the device layer leaves alone -/

theorem rfWrite_draws (d : DevId) (r : RegAddr) (v : Byte) (s : State) : (rfWrite d r v s).draws = s.draws := by
  unfold rfWrite rfWriteEnable rfWriteReq0Hi rfWriteReq1Hi rfWriteStartTrig
  split_ifs <;> simp [rfWriteRdcnt, rfWriteReq0Lo, rfWriteReq1Lo, rfWriteNone]

/-- A device write draws no unspecified byte. -/
theorem devWrite_draws (d : DevId) (v : Byte) (s : State) : (devWrite d v s).draws = s.draws := by
  unfold devWrite
  split
  · rfl
  · exact rfWrite_draws d _ v s
  · rfl
  · exact rfWrite_draws d _ v s
  · rfl

/-- What every operation of the device layer leaves alone: the bus contexts, the actual values, the inputs to
come and the answer. -/
structure LayerFrame (s t : State) : Prop where
  bus : t.bus = s.bus
  actual : t.tel.actualTach = s.tel.actualTach
  inputs : t.inputs = s.inputs
  answer : t.answer = s.answer

theorem LayerFrame.refl (s : State) : LayerFrame s s := ⟨rfl, rfl, rfl, rfl⟩

theorem DevEffect.layerFrame {d : DevId} {s t : State} (h : DevEffect d s t) : LayerFrame s t :=
  ⟨h.bus, h.actual, h.inputs, h.answer⟩

theorem onByteWritten_frame (b : BusId) (a v : Byte) (s : State) :
    LayerFrame s (onByteWritten b a v s) ∧ (onByteWritten b a v s).draws = s.draws := by
  rcases onByteWritten_cases b a v s with h | ⟨d, _, h⟩ <;> rw [h]
  · exact ⟨.refl s, rfl⟩
  · exact ⟨(devWrite_effect d v s).layerFrame, devWrite_draws d v s⟩

theorem onByteRequested_frame (b : BusId) (a : Byte) (s : State) :
    LayerFrame s (onByteRequested b a s).2 ∧ (onByteRequested b a s).2.tel = s.tel := by
  rcases onByteRequested_cases b a s with ⟨_, h⟩ | ⟨d, _, h⟩ | ⟨_, h⟩ <;> rw [h]
  · exact ⟨.refl s, rfl⟩
  · exact ⟨(devRead_effect d s).layerFrame, devRead_tel d s⟩
  · exact ⟨⟨rfl, rfl, rfl, rfl⟩, rfl⟩

theorem onStop_frame (b : BusId) (a : Byte) (s : State) :
    LayerFrame s (onStop b a s) ∧ (onStop b a s).tel = s.tel ∧ (onStop b a s).draws = s.draws := by
  rcases onStop_cases b a s with h | ⟨d, _, h⟩ <;> rw [h]
  · exact ⟨.refl s, rfl, rfl⟩
  · exact ⟨(devStop_effect d s).layerFrame, rfl, rfl⟩

theorem tellStop_frame (b : BusId) (s : State) :
    LayerFrame s (tellStop b s) ∧ (tellStop b s).tel = s.tel ∧ (tellStop b s).draws = s.draws := by
  unfold tellStop
  split
  · exact onStop_frame b _ s
  · exact ⟨.refl s, rfl, rfl⟩

theorem LayerFrame.busAt {s t : State} (h : LayerFrame s t) (b : BusId) : t.busAt b = s.busAt b := by
  unfold State.busAt; rw [h.bus]

/-- A stop in one update of the bus context. -/
theorem stopOp_eq (b : BusId) (s : State) :
    stopOp b s = (tellStop b s).modBus b fun B => { B with state := .idle, sdaMon := .fall } := by
  unfold stopOp tellStop
  simp only [busAt_modBus_self]
  split
  · rw [onStop_modBus, modBus_modBus]
  · rw [modBus_modBus]

/-- A byte's acknowledge in one update of the bus context. -/
theorem wrAckOp_eq (b : BusId) (s : State) :
    wrAckOp b s = (deliverByte b s).modBus b fun B =>
      { B with sdaDir := .out, sdaDrv := false, state := .writePrepare } := by
  unfold wrAckOp deliverByte
  rw [busAt_modBus_self, onByteWritten_modBus, modBus_modBus]

/-- A byte fetched and its first bit driven, in one update of the bus context. -/
theorem rdPrepOp_eq (b : BusId) (s : State) :
    rdPrepOp b s = (onByteRequested b (s.busAt b).addr s).2.modBus b fun B =>
      rdBitCtx (rdLoadCtx (onByteRequested b (s.busAt b).addr s).1 B) := by
  unfold rdPrepOp loadByte
  rw [modBus_modBus]

end Sys2Proof.Machine
end

