-- ==== Sys2Proof/Laws/Step.lean ====
section
/-! SUPPORT. What one step can do, said once: the outcome of an event (spec/40_bus_decoder.md R120 to
R136), of a step, and the invariants' single cases, so that no later proof unfolds the selection. -/

namespace Sys2Proof.Machine

/-- What an event of a bus can do: nothing, a stop, a start, or the clock operation of the decoder's
state with the level armed for. -/
inductive EventCase (b : BusId) (line : Line) (scl sda : Bool) (s : State) : State → Prop where
  | inert (h : (line = .data ∧ (monitored (s.busAt b).sdaMon = false ∨ scl = false ∨
        (sda = false ∧ (s.busAt b).state ≠ .idle ∧ (s.busAt b).state ≠ .write))) ∨
      (line = .clock ∧ (scl ≠ armedLevel (s.busAt b).sclArm ∨ (s.busAt b).state = .idle ∨
        (s.busAt b).state = .waitStop))) : EventCase b line scl sda s s
  | stop (hl : line = .data) (hc : scl = true) (hd : sda = true)
      (hm : monitored (s.busAt b).sdaMon = true) : EventCase b line scl sda s (stopOp b s)
  | start (hl : line = .data) (hc : scl = true) (hd : sda = false)
      (hm : monitored (s.busAt b).sdaMon = true)
      (hs : (s.busAt b).state = .idle ∨ (s.busAt b).state = .write) :
      EventCase b line scl sda s (s.modBus b startCtx)
  | addrShift (hl : line = .clock) (hc : scl = armedLevel (s.busAt b).sclArm)
      (hs : (s.busAt b).state = .address) : EventCase b line scl sda s (s.modBus b (addrShiftCtx sda))
  | addrAck (hl : line = .clock) (hc : scl = armedLevel (s.busAt b).sclArm)
      (hs : (s.busAt b).state = .addressAck) : EventCase b line scl sda s (s.modBus b addrAckCtx)
  | rdPrep (hl : line = .clock) (hc : scl = armedLevel (s.busAt b).sclArm)
      (hs : (s.busAt b).state = .readPrepare) : EventCase b line scl sda s (rdPrepOp b s)
  | rdBit (hl : line = .clock) (hc : scl = armedLevel (s.busAt b).sclArm)
      (hs : (s.busAt b).state = .read) : EventCase b line scl sda s (s.modBus b rdBitCtx)
  | rdAck (hl : line = .clock) (hc : scl = armedLevel (s.busAt b).sclArm)
      (hs : (s.busAt b).state = .readAck) : EventCase b line scl sda s (s.modBus b rdAckCtx)
  | wrPrep (hl : line = .clock) (hc : scl = armedLevel (s.busAt b).sclArm)
      (hs : (s.busAt b).state = .writePrepare) : EventCase b line scl sda s (s.modBus b wrPrepCtx)
  | wrShift (hl : line = .clock) (hc : scl = armedLevel (s.busAt b).sclArm)
      (hs : (s.busAt b).state = .write) : EventCase b line scl sda s (s.modBus b (wrShiftCtx sda))
  | wrAck (hl : line = .clock) (hc : scl = armedLevel (s.busAt b).sclArm)
      (hs : (s.busAt b).state = .writeAck) : EventCase b line scl sda s (wrAckOp b s)

/-- The outcome of an event is a next state, and one of the cases. -/
theorem runEvent_cases (b : BusId) (line : Line) (scl sda : Bool) (s : State) :
    ∃ t, runEvent b line scl sda s = .next t ∧ EventCase b line scl sda s t := by
  cases line with
  | clock =>
    by_cases hc : scl = armedLevel (s.busAt b).sclArm
    · cases hs : (s.busAt b).state <;>
        refine ⟨_, by simp only [runEvent, select, clockOp, if_pos hc, hs]; rfl, ?_⟩
      · exact .inert (.inr ⟨rfl, .inr (.inl hs)⟩)
      · exact .addrShift rfl hc hs
      · exact .addrAck rfl hc hs
      · exact .rdPrep rfl hc hs
      · exact .rdBit rfl hc hs
      · exact .rdAck rfl hc hs
      · exact .wrPrep rfl hc hs
      · exact .wrShift rfl hc hs
      · exact .wrAck rfl hc hs
      · exact .inert (.inr ⟨rfl, .inr (.inr hs)⟩)
    · exact ⟨s, by simp only [runEvent, select, if_neg hc]; rfl, .inert (.inr ⟨rfl, .inl hc⟩)⟩
  | data =>
    cases hm : monitored (s.busAt b).sdaMon with
    | false => exact ⟨s, by simp [runEvent, select, hm], .inert (.inl ⟨rfl, .inl hm⟩)⟩
    | true =>
      cases scl with
      | false => exact ⟨s, by simp [runEvent, select, hm, dataOp, exec, execEvDatNopScl0],
          .inert (.inl ⟨rfl, .inr (.inl rfl)⟩)⟩
      | true =>
        cases sda with
        | true => exact ⟨_, by simp only [runEvent, select, hm, dataOp, if_true]; rfl, .stop rfl rfl rfl hm⟩
        | false =>
          cases hs : (s.busAt b).state <;>
            refine ⟨_, by simp only [runEvent, select, hm, dataOp, if_true, hs]; rfl, ?_⟩ <;>
            first
              | exact .start rfl rfl rfl hm (.inl hs)
              | exact .start rfl rfl rfl hm (.inr hs)
              | exact .inert (.inl ⟨rfl, .inr (.inr ⟨rfl, by simp [hs], by simp [hs]⟩)⟩)

/-- What one step can do (R6, R70). -/
theorem step_cases {s t : State} (h : step s = .next t) :
    (s.inputs = [] ∧ t = s) ∨
    (∃ b line scl sda rest, s.inputs = .event b line scl sda :: rest ∧
      EventCase b line scl sda { s with inputs := rest } t) ∨
    (∃ frame i rest, s.inputs = .call frame :: rest ∧ decode frame = .ok i ∧
      exec i { s with inputs := rest } = .next t) ∨
    (∃ rest, s.inputs = .reset :: rest ∧ t = State.resetBlock { s with inputs := rest }) := by
  unfold step at h
  split at h
  · exact .inl ⟨‹_›, by cases h; rfl⟩
  · rename_i x rest hx
    cases x with
    | event b line scl sda =>
      obtain ⟨u, hu, hc⟩ := runEvent_cases b line scl sda { s with inputs := rest }
      have hut : u = t := by
        have : Host.Outcome.next u = Host.Outcome.next t := hu.symm.trans h
        exact Host.Outcome.next.inj this
      exact .inr (.inl ⟨b, line, scl, sda, rest, hx, hut ▸ hc⟩)
    | call frame =>
      simp only [runInput, runCall] at h
      split at h
      · exact .inr (.inr (.inl ⟨frame, _, rest, hx, ‹_›, h⟩))
      · cases h
    | reset => exact .inr (.inr (.inr ⟨rest, hx, by cases h; rfl⟩))

/-- A port operation cannot reach `bus[b]` or `dev[d]` (R47). -/
theorem exec_port {i : Instr} (hi : i.format = .port) (s : State) :
    ∃ t, exec i s = .next t ∧ t.bus = s.bus ∧ t.dev = s.dev ∧ t.inputs = s.inputs ∧ t.draws = s.draws ∧
      t.tel.enabled = s.tel.enabled ∧ t.tel.requestedTach = s.tel.requestedTach := by
  cases i with
  | hostRdReq k => exact ⟨s.answering _, rfl, rfl, rfl, rfl, rfl, rfl, rfl⟩
  | hostRdEn k => exact ⟨s.answering _, rfl, rfl, rfl, rfl, rfl, rfl, rfl⟩
  | hostWrAct k x => exact ⟨s.writeActual k x, rfl, rfl, rfl, rfl, rfl, rfl, rfl⟩
  | hostTacStart => exact ⟨(s.setStart false).answering _, rfl, rfl, rfl, rfl, rfl, rfl, rfl⟩
  | hostTacRpm => exact ⟨(s.setRpm false).answering _, rfl, rfl, rfl, rfl, rfl, rfl, rfl⟩
  | _ => nomatch hi

/-- What one hardware step can do (assumption log 2: a call is a port call). -/
theorem hw_cases {s t : State} (hn : s.hardwareNext) (h : step s = .next t) :
    (s.inputs = [] ∧ t = s) ∨
    (∃ b line scl sda rest, s.inputs = .event b line scl sda :: rest ∧ EventCase b line scl sda { s with inputs := rest } t) ∨
    (∃ frame i rest, s.inputs = .call frame :: rest ∧ decode frame = .ok i ∧ i.format = .port ∧ exec i { s with inputs := rest } = .next t
       ∧ t.bus = s.bus ∧ t.dev = s.dev) ∨
    (∃ rest, s.inputs = .reset :: rest ∧ t = State.resetBlock { s with inputs := rest }) := by
  rcases step_cases h with h | h | ⟨frame, i, rest, hi, hd, he⟩ | h
  · exact .inl h
  · exact .inr (.inl h)
  · have hf : i.format = .port := by
      have := hn _ _ hi
      simpa [Input.fromHardware, hd] using this
    obtain ⟨u, hu, h1, h2, _⟩ := exec_port hf { s with inputs := rest }
    rw [he] at hu; cases hu
    exact .inr (.inr (.inl ⟨frame, i, rest, hi, hd, hf, he, h1, h2⟩))
  · exact .inr (.inr (.inr h))

/-- The bus contexts after RD.PREP. -/
theorem busAt_rdPrep (b : BusId) (s : State) : ((rdPrepOp b s).busAt b = rdBitCtx (rdLoadCtx (onByteRequested b (s.busAt b).addr s).1 (s.busAt b))) ∧ ∀ b', b' ≠ b → (rdPrepOp b s).busAt b' = s.busAt b' := by
  have hf := onByteRequested_frame b (s.busAt b).addr s
  rw [rdPrepOp_eq]
  exact ⟨by rw [busAt_modBus_self, hf.1.busAt], fun b' h => by rw [busAt_modBus_of_ne _ _ h, hf.1.busAt]⟩

/-- The bus contexts after WR.ACK. -/
theorem busAt_wrAck (b : BusId) (s : State) : ((wrAckOp b s).busAt b = { s.busAt b with sdaDir := .out, sdaDrv := false, state := .writePrepare }) ∧ ∀ b', b' ≠ b → (wrAckOp b s).busAt b' = s.busAt b' := by
  have hf := onByteWritten_frame b (s.busAt b).addr (s.busAt b).data s
  rw [wrAckOp_eq, deliverByte]
  exact ⟨by rw [busAt_modBus_self, hf.1.busAt], fun b' h => by rw [busAt_modBus_of_ne _ _ h, hf.1.busAt]⟩

/-- The bus contexts after a stop. -/
theorem busAt_stop (b : BusId) (s : State) : ((stopOp b s).busAt b = { s.busAt b with state := .idle, sdaMon := .fall }) ∧ ∀ b', b' ≠ b → (stopOp b s).busAt b' = s.busAt b' := by
  have hf := tellStop_frame b s
  rw [stopOp_eq]
  exact ⟨by rw [busAt_modBus_self, hf.1.busAt], fun b' h => by rw [busAt_modBus_of_ne _ _ h, hf.1.busAt]⟩

/-- What an event does to the bus contexts. -/
theorem case_bus {b line scl sda} {s t : State} (h : EventCase b line scl sda s t) :
   (∀ b', b' ≠ b → t.busAt b' = s.busAt b') ∧
   (t.busAt b = s.busAt b ∨
    (line = .data ∧ scl = true ∧ sda = true ∧ monitored (s.busAt b).sdaMon = true ∧ t.busAt b = { s.busAt b with state := .idle, sdaMon := .fall }) ∨
    (line = .data ∧ scl = true ∧ sda = false ∧ monitored (s.busAt b).sdaMon = true ∧ ((s.busAt b).state = .idle ∨ (s.busAt b).state = .write) ∧ t.busAt b = startCtx (s.busAt b)) ∨
    (line = .clock ∧ scl = armedLevel (s.busAt b).sclArm ∧
     ((s.busAt b).state = .address ∧ t.busAt b = addrShiftCtx sda (s.busAt b) ∨
      (s.busAt b).state = .addressAck ∧ t.busAt b = addrAckCtx (s.busAt b) ∨
      (s.busAt b).state = .readPrepare ∧ (∃ r, t.busAt b = rdBitCtx (rdLoadCtx r (s.busAt b))) ∨
      (s.busAt b).state = .read ∧ t.busAt b = rdBitCtx (s.busAt b) ∨
      (s.busAt b).state = .readAck ∧ t.busAt b = rdAckCtx (s.busAt b) ∨
      (s.busAt b).state = .writePrepare ∧ t.busAt b = wrPrepCtx (s.busAt b) ∨
      (s.busAt b).state = .write ∧ t.busAt b = wrShiftCtx sda (s.busAt b) ∨
      (s.busAt b).state = .writeAck ∧ t.busAt b = { s.busAt b with sdaDir := .out, sdaDrv := false, state := .writePrepare }))) := by
  cases h
  case inert => exact ⟨fun _ _ => rfl, .inl rfl⟩
  case stop h1 h2 h3 h4 => exact ⟨(busAt_stop b s).2, .inr (.inl ⟨h1, h2, h3, h4, (busAt_stop b s).1⟩)⟩
  case rdPrep h1 h2 h3 => exact ⟨(busAt_rdPrep b s).2, .inr (.inr (.inr ⟨h1, h2, by simp [h3]; exact ⟨_, (busAt_rdPrep b s).1⟩⟩))⟩
  case wrAck h1 h2 h3 => exact ⟨(busAt_wrAck b s).2, .inr (.inr (.inr ⟨h1, h2, by simp [h3]; exact (busAt_wrAck b s).1⟩))⟩
  all_goals refine ⟨fun _ h => busAt_modBus_of_ne _ _ h, .inr (.inr ?_)⟩
  case start h1 h2 h3 h4 h5 => exact .inl ⟨h1, h2, h3, h4, h5, busAt_modBus_self _ _ _⟩
  all_goals rename_i h1 h2 h3; exact .inr ⟨h1, h2, by simp [h3]⟩

/-- What an event does to the device contexts. -/
theorem case_dev {b line scl sda} {s t : State} (h : EventCase b line scl sda s t) :
   (∀ d, t.devAt d = s.devAt d) ∨
   ∃ d, (∀ d', d' ≠ d → t.devAt d' = s.devAt d') ∧
     (t.devAt d = (devStop d s).devAt d ∧ line = .data ∧ scl = true ∧ sda = true ∧ monitored (s.busAt b).sdaMon = true ∧ (s.busAt b).maddrValid = true ∧ route b (s.busAt b).maddr = .dev d ∨
      (t.devAt d = (devRead d s).2.devAt d ∧ (s.busAt b).state = .readPrepare ∧ line = .clock ∧ route b (s.busAt b).addr = .dev d) ∨
      (t.devAt d = (devWrite d (s.busAt b).data s).devAt d ∧ (s.busAt b).state = .writeAck ∧ line = .clock ∧ scl = armedLevel (s.busAt b).sclArm ∧ route b (s.busAt b).addr = .dev d)) := by
  cases h
  case stop h1 h2 h3 h4 =>
    rw [stopOp_eq]
    unfold tellStop
    split
    · rename_i hv
      rcases onStop_cases b (s.busAt b).maddr s with h | ⟨d, hr, h⟩
      · left; intro d; rw [h]; rfl
      · right
        refine ⟨d, fun d' hd => ?_, .inl ⟨by rw [h]; rfl, h1, h2, h3, h4, hv, hr⟩⟩
        rw [h]; exact (devStop_effect d s).otherDev d' hd
    · left; intro d; rfl
  case rdPrep h1 h2 h3 =>
    rw [rdPrepOp_eq]
    rcases onByteRequested_cases b (s.busAt b).addr s with ⟨_, h⟩ | ⟨d, hr, h⟩ | ⟨_, h⟩
    · left; intro d; rw [h]; rfl
    · right
      refine ⟨d, fun d' hd => ?_, .inr (.inl ⟨by rw [h]; rfl, h3, h1, hr⟩)⟩
      rw [h]; exact (devRead_effect d s).otherDev d' hd
    · left; intro d; rw [h]; rfl
  case wrAck h1 h2 h3 =>
    rw [wrAckOp_eq, deliverByte]
    rcases onByteWritten_cases b (s.busAt b).addr (s.busAt b).data s with h | ⟨d, hr, h⟩
    · left; intro d; rw [h]; rfl
    · right
      refine ⟨d, fun d' hd => ?_, .inr (.inr ⟨by rw [h]; rfl, h3, h1, h2, hr⟩)⟩
      rw [h]; exact (devWrite_effect d _ s).otherDev d' hd
  all_goals left; intro d; rfl

/-- What an event does to the telemetry. -/
theorem case_tel {b line scl sda} {s t : State} (h : EventCase b line scl sda s t) :
   t.tel = s.tel ∨ (line = .clock ∧ scl = armedLevel (s.busAt b).sclArm ∧ (s.busAt b).state = .writeAck ∧
     t.tel = (onByteWritten b (s.busAt b).addr (s.busAt b).data s).tel) := by
  cases h
  case stop => left; rw [stopOp_eq]; exact (tellStop_frame b s).2.1
  case rdPrep => left; rw [rdPrepOp_eq]; exact (onByteRequested_frame b _ s).2
  case wrAck h1 h2 h3 => right; exact ⟨h1, h2, h3, by rw [wrAckOp_eq]; rfl⟩
  all_goals exact .inl rfl

theorem event_case {s t : State} {b line scl sda rest} (hi : s.inputs = Input.event b line scl sda :: rest) (h : step s = .next t) :
   EventCase b line scl sda { s with inputs := rest } t := by
  rcases step_cases h with ⟨e, _⟩ | ⟨c, l, x, y, r, e, hc⟩ | ⟨_, _, _, e, _⟩ | ⟨_, e, _⟩ <;> rw [hi] at e <;> cases e
  exact hc

end Sys2Proof.Machine
end

