-- ==== Sys2Proof/Laws/Bits.lean ====
section
/-! SUPPORT. Runs of clock events on one bus: how a step of a bus-local operation looks, what eight shifted bits
come to (spec/30_encoding.md R96), and the row of ADDR8 of an address byte as one update of the bus context. -/

namespace Sys2Proof.Machine

theorem run_succ {k : Nat} {s t : State} (h : step s = .next t) :
    Host.Core.run Sys2Proof.core (k + 1) s = Host.Core.run Sys2Proof.core k t := by
  have h' : Sys2Proof.core.step s = .next t := h
  simp only [Host.Core.run, h']

theorem run_one (s : State) : Host.Core.run Sys2Proof.core 1 s = step s := by
  show Host.Core.run core (0 + 1) s = _
  have : core.step s = step s := rfl
  simp only [Host.Core.run, this]
  cases step s <;> rfl

/-- A clock event at the armed level whose operation only updates the bus context. -/
theorem step_clock_mod {s : State} {b : BusId} {scl sda : Bool} {rest : List Input} {f g : BusCtx → BusCtx}
    (hc : scl = armedLevel (f (s.busAt b)).sclArm)
    (hg : ∀ u, exec (clockOp b (f (s.busAt b)).state scl sda) u = .next (u.modBus b g)) :
    step ({ s with inputs := .event b .clock scl sda :: rest }.modBus b f) =
      .next ({ s with inputs := rest }.modBus b fun B => g (f B)) := by
  have hb : (({ s with inputs := rest } : State).modBus b f).busAt b = f (s.busAt b) := busAt_modBus_self _ b f
  show runEvent b .clock scl sda ({ s with inputs := rest }.modBus b f) = _
  rw [runEvent, select, hb, if_pos hc]
  have := hg ({ s with inputs := rest }.modBus b f)
  rw [modBus_modBus] at this
  exact this

/-- The bits after one shift. -/
theorem shiftIn_get (x : Byte) (y : Bool) (i : Nat) (hi : i < 8) :
    (shiftIn x y).getLsbD i = if i = 0 then y else x.getLsbD (i - 1) := by
  rw [shiftIn, BitVec.getLsbD_append]
  by_cases h : i = 0
  · subst h; simp
  · rw [if_neg (by omega), if_neg h, BitVec.getLsbD_extractLsb', decide_eq_true (by omega)]
    simp

/-- Eight shifted bits, most significant first, are the byte, whatever was in the accumulator. -/
theorem shiftIn_byte (a x : Byte) :
    shiftIn (shiftIn (shiftIn (shiftIn (shiftIn (shiftIn (shiftIn (shiftIn x (a.getLsbD 7)) (a.getLsbD 6))
      (a.getLsbD 5)) (a.getLsbD 4)) (a.getLsbD 3)) (a.getLsbD 2)) (a.getLsbD 1)) (a.getLsbD 0) = a := by
  apply BitVec.eq_of_getLsbD_eq
  intro i hi
  have : i = 0 ∨ i = 1 ∨ i = 2 ∨ i = 3 ∨ i = 4 ∨ i = 5 ∨ i = 6 ∨ i = 7 := by omega
  rcases this with rfl | rfl | rfl | rfl | rfl | rfl | rfl | rfl <;>
    simp only [shiftIn_get, Nat.reduceLT, Nat.reduceSub, if_true, if_false, OfNat.ofNat_ne_zero, one_ne_zero]

/-- The row of an address byte as one update (R127, R128, R129). -/
theorem addr8Row_eq (b : BusId) (a : Byte) (s : State) : 
    exec (addr8Row b a) s = .next (s.modBus b fun B =>
      if matchAddr (addr7 a) then addrAckCtx (addressReceived a B) else addressReceived a B) := by
  have hfam : ∀ (oo : BitVec 2) (rw : Bool), (decide (Config.devBase ≤ addr7 (famByte oo rw)) && decide (addr7 (famByte oo rw) ≤ Config.devBase + 3#7)) = true := by decide
  have hf0 : ∀ a : Byte, a &&& 0xF9#8 = 0xA0#8 → famByte (a.extractLsb' 1 2) false = a := by decide
  have hf1 : ∀ a : Byte, a &&& 0xF9#8 = 0xA1#8 → famByte (a.extractLsb' 1 2) true = a := by decide
  have hmf : ∀ oo rw, matchAddr (addr7 (famByte oo rw)) = true := fun oo rw => by rw [matchAddr, hfam]; rfl
  have haux : ∀ (a : DevAddr) (x : Bool), addr7 (addrByte a x) = a := by decide
  have hma : ∀ rw, matchAddr (addr7 (addrByte Config.auxAddr rw)) = true := fun rw => by simp [matchAddr, haux]
  have hsplit : ∀ (a : Byte), a = addrByte (addr7 a) false ∨ a = addrByte (addr7 a) true := by decide
  have hfm : ∀ (a : Byte), (decide (Config.devBase ≤ addr7 a) && decide (addr7 a ≤ Config.devBase + 3#7)) = true →
    a &&& 0xF9#8 = 0xA0#8 ∨ a &&& 0xF9#8 = 0xA1#8 := by decide
  by_cases h1 : a &&& 0xF9#8 = 0xA0#8
  · have e := hf0 a h1
    have hm : matchAddr (addr7 a) = true := by rw [← e]; exact hmf _ _
    rw [addr8Row, if_pos h1, hm]
    show Host.Outcome.next (s.modBus b fun B => addrAckCtx (addressReceived (famByte (a.extractLsb' 1 2) false) B)) = _
    rw [e]; rfl
  by_cases h2 : a &&& 0xF9#8 = 0xA1#8
  · have e := hf1 a h2
    have hm : matchAddr (addr7 a) = true := by rw [← e]; exact hmf _ _
    rw [addr8Row, if_neg h1, if_pos h2, hm]
    show Host.Outcome.next (s.modBus b fun B => addrAckCtx (addressReceived (famByte (a.extractLsb' 1 2) true) B)) = _
    rw [e]; rfl
  by_cases h3 : a = addrByte Config.auxAddr false
  · rw [addr8Row, if_neg h1, if_neg h2, if_pos h3]; subst h3; rw [hma]; rfl
  by_cases h4 : a = addrByte Config.auxAddr true
  · rw [addr8Row, if_neg h1, if_neg h2, if_neg h3, if_pos h4]; subst h4; rw [hma]; rfl
  · have : matchAddr (addr7 a) = false := by
      cases hm : matchAddr (addr7 a)
      · rfl
      · rw [matchAddr, Bool.or_eq_true] at hm
        rcases hm with hm | hm
        · rcases hfm a hm with h | h
          · exact absurd h h1
          · exact absurd h h2
        · have he : addr7 a = Config.auxAddr := by simpa using hm
          have := hsplit a
          rw [he] at this
          rcases this with h | h
          · exact absurd h h3
          · exact absurd h h4
    rw [addr8Row, if_neg h1, if_neg h2, if_neg h3, if_neg h4, this]; rfl

end Sys2Proof.Machine
end

