-- ==== Sys2Proof/Laws/Decode.lean ====
section
/-! SUPPORT. The readers of Decode.lean against the writers, one lemma each way: a number, a word and a state read back
as they were written, and what reads is what would be written. And the facts about address bytes that no value of
`AUX_ADDR` changes. -/

namespace Sys2Proof

open Sys2Proof.Machine

/-! ## What was written reads back -/

theorem withBus_busByte (b : BusId) (k : BusId → Decoded) : withBus (busByte b) k = k b := by
  have hb := b.isLt
  have h : (busByte b).toNat = b.val := by simp [busByte]; omega
  unfold withBus
  rw [dif_pos (by omega)]
  congr 1
  exact Fin.ext h

theorem withDev_devByte (d : DevId) (k : DevId → Decoded) : withDev (devByte d) k = k d := by
  have hb := d.isLt
  have h : (devByte d).toNat = d.val := by simp [devByte]; omega
  unfold withDev
  rw [dif_pos (by omega)]
  congr 1
  exact Fin.ext h

theorem withSlot_slotByte (d : SlotId) (k : SlotId → Decoded) : withSlot (slotByte d) k = k d := by
  have hb := d.isLt
  have h : (slotByte d).toNat = d.val := by simp [slotByte]; omega
  unfold withSlot
  rw [dif_pos (by omega)]
  congr 1
  exact Fin.ext h

theorem withWord7_word7 (w : BitVec 7) (k : BitVec 7 → Decoded) : withWord7 (word7 w) k = k w := by
  have h1 : (word7 w).getLsbD 7 = false := by
    revert w; decide
  have h2 : (word7 w).extractLsb' 0 7 = w := by
    revert w; decide
  rw [withWord7, h1, h2]; rfl

theorem withState_dispatchWord (st : BusState) (line scl sda x) (k : BusState → Decoded) :
    withState x (dispatchWord st line scl sda) k = k st := by
  have : stateOfCode ((dispatchWord st line scl sda).extractLsb' 3 4) = some st := by
    cases st <;> cases line <;> cases scl <;> cases sda <;> decide
  simp [withState, this]

theorem decode_disp7Frame (b st line scl sda) :
    decode (disp7Frame b st line scl sda) = .ok (disp7Row b st (dispatchWord st line scl sda)) := by
  simp [decode, disp7Frame, decodeDisp7, withBus_busByte, withWord7_word7, withState_dispatchWord]

/-! ## What reads is what would be written -/

theorem withBus_ok {x : Byte} {k : BusId → Decoded} {i : Instr} (h : withBus x k = .ok i) : ∃ b, x = busByte b ∧ k b = .ok i := by
  unfold withBus at h
  split at h
  · exact ⟨_, by simp [busByte], h⟩
  · cases h

theorem withDev_ok {x : Byte} {k : DevId → Decoded} {i : Instr} (h : withDev x k = .ok i) : ∃ b, x = devByte b ∧ k b = .ok i := by
  unfold withDev at h
  split at h
  · exact ⟨_, by simp [devByte], h⟩
  · cases h

theorem withSlot_ok {x : Byte} {k : SlotId → Decoded} {i : Instr} (h : withSlot x k = .ok i) : ∃ b, x = slotByte b ∧ k b = .ok i := by
  unfold withSlot at h
  split at h
  · exact ⟨_, by simp [slotByte], h⟩
  · cases h

theorem withWord7_ok {x : Byte} {k : BitVec 7 → Decoded} {i : Instr} (h : withWord7 x k = .ok i) : ∃ b, x = word7 b ∧ k b = .ok i := by
  unfold withWord7 at h
  split at h
  · cases h
  · refine ⟨_, ?_, h⟩
    have : ∀ x : Byte, x.getLsbD 7 = false → x = word7 (x.extractLsb' 0 7) := by decide
    exact this x (Bool.eq_false_iff.mpr ‹¬ _›)
theorem withState_ok {x : Byte} {w : BitVec 7} {k : BusState → Decoded} {i : Instr} (h : withState x w k = .ok i) :
    ∃ st, stateOfCode (w.extractLsb' 3 4) = some st ∧ k st = .ok i := by
  unfold withState at h
  split at h
  · exact ⟨_, ‹_›, h⟩
  · cases h

/-! ## Address bytes -/

/-- The bytes of `AUX_ADDR` are no family bytes (R5, R171). -/
theorem auxByte_facts : ∀ rw : Bool,
    (addrByte Config.auxAddr rw) &&& 0xF9#8 ≠ 0xA0#8 ∧ (addrByte Config.auxAddr rw) &&& 0xF9#8 ≠ 0xA1#8 := by
  have : ∀ a : DevAddr, (a < 0x50#7 ∨ 0x53#7 < a) → ∀ rw : Bool,
    (addrByte a rw) &&& 0xF9#8 ≠ 0xA0#8 ∧ (addrByte a rw) &&& 0xF9#8 ≠ 0xA1#8 := by decide
  exact this _ auxAddr_outside_family

theorem fam_w : ∀ (a : Byte), a &&& 0xF9#8 = 0xA0#8 → 0b10100#5 ++ a.extractLsb' 1 2 ++ 0#1 = a := by decide
theorem fam_r : ∀ (a : Byte), a &&& 0xF9#8 = 0xA1#8 → 0b10100#5 ++ a.extractLsb' 1 2 ++ 1#1 = a := by decide
theorem addrByte_split : ∀ (a : Byte), a = addrByte (addr7 a) (rwBit a) := by decide
/-- An address in the family's range is one of its four (R128). -/
theorem fam_match : ∀ (a : Byte), (decide (Config.devBase ≤ addr7 a) && decide (addr7 a ≤ Config.devBase + 3#7)) = true →
   a &&& 0xF9#8 = 0xA0#8 ∨ a &&& 0xF9#8 = 0xA1#8 := by decide

end Sys2Proof
end

