-- ==== Sys2Proof/Laws/PerInstr.lean ====
section
/-! SUPPORT. The statement made per instruction: the shape of each operation's frame (assumption log 3), by which the
decoder tells the formats apart. -/

namespace Sys2Proof.Laws.FrameShape

/-- The first byte of a frame of each format. -/
def formatByte : Format → Byte
  | .disp7 => 0
  | .addr8 => 1
  | .cmd8 => 2
  | .reg7w => 3
  | .reg7r => 4
  | .devop => 5
  | .port => 6

/-- A frame begins with the byte of its operation's format, and is at most five bytes long. -/
def Statement (i : Instr) : Prop :=
  (encode i).head? = some (formatByte i.format) ∧ (encode i).length ≤ 5

theorem disp7Frame_shape (b : BusId) (st : BusState) (line : Line) (scl sda : Bool) :
    (disp7Frame b st line scl sda).head? = some (0 : Byte) ∧ (disp7Frame b st line scl sda).length ≤ 5 :=
  ⟨rfl, show 3 ≤ 5 by decide⟩

theorem evStop (b : BusId) (st : BusState) : Statement (.evStop b st) := disp7Frame_shape _ _ _ _ _

theorem evStartIdle (b : BusId) : Statement (.evStartIdle b) := disp7Frame_shape _ _ _ _ _

theorem evStartWrite (b : BusId) : Statement (.evStartWrite b) := disp7Frame_shape _ _ _ _ _

theorem evDatNopScl1 (b : BusId) (st : BusState) : Statement (.evDatNopScl1 b st) := disp7Frame_shape _ _ _ _ _

theorem evDatNopScl0 (b : BusId) (st : BusState) (sda : Bool) : Statement (.evDatNopScl0 b st sda) := disp7Frame_shape _ _ _ _ _

theorem addrShift (b : BusId) (sda : Bool) : Statement (.addrShift b sda) := disp7Frame_shape _ _ _ _ _

theorem addrAck (b : BusId) (sda : Bool) : Statement (.addrAck b sda) := disp7Frame_shape _ _ _ _ _

theorem rdPrep (b : BusId) (sda : Bool) : Statement (.rdPrep b sda) := disp7Frame_shape _ _ _ _ _

theorem rdBit (b : BusId) (sda : Bool) : Statement (.rdBit b sda) := disp7Frame_shape _ _ _ _ _

theorem rdAck (b : BusId) (sda : Bool) : Statement (.rdAck b sda) := disp7Frame_shape _ _ _ _ _

theorem wrPrep (b : BusId) (sda : Bool) : Statement (.wrPrep b sda) := disp7Frame_shape _ _ _ _ _

theorem wrShift (b : BusId) (sda : Bool) : Statement (.wrShift b sda) := disp7Frame_shape _ _ _ _ _

theorem wrAck (b : BusId) (sda : Bool) : Statement (.wrAck b sda) := disp7Frame_shape _ _ _ _ _

theorem clkInertIdle (b : BusId) (scl sda : Bool) : Statement (.clkInertIdle b scl sda) := disp7Frame_shape _ _ _ _ _

theorem clkInertWaitStop (b : BusId) (scl sda : Bool) : Statement (.clkInertWaitStop b scl sda) := disp7Frame_shape _ _ _ _ _

theorem clkGuard (b : BusId) (st : BusState) (scl sda : Bool) : Statement (.clkGuard b st scl sda) := disp7Frame_shape _ _ _ _ _

theorem addrFamW (b : BusId) (oo : BitVec 2) : Statement (.addrFamW b oo) := ⟨rfl, by simp [encode]⟩

theorem addrFamR (b : BusId) (oo : BitVec 2) : Statement (.addrFamR b oo) := ⟨rfl, by simp [encode]⟩

theorem addrAuxW (b : BusId) : Statement (.addrAuxW b) := ⟨rfl, by simp [encode]⟩

theorem addrAuxR (b : BusId) : Statement (.addrAuxR b) := ⟨rfl, by simp [encode]⟩

theorem addrNoMatch (b : BusId) (a : Byte) : Statement (.addrNoMatch b a) := ⟨rfl, by simp [encode]⟩

theorem cmdSingle (d : DevId) (r : RegAddr) : Statement (.cmdSingle d r) := ⟨rfl, by simp [encode]⟩

theorem cmdBlock (d : DevId) (r : RegAddr) : Statement (.cmdBlock d r) := ⟨rfl, by simp [encode]⟩

theorem rfWRdcnt (d : DevId) (v : Byte) : Statement (.rfWRdcnt d v) := ⟨rfl, by simp [encode]⟩

theorem rfWEnable (d : DevId) (v : Byte) : Statement (.rfWEnable d v) := ⟨rfl, by simp [encode]⟩

theorem rfWReq0Lo (d : DevId) (v : Byte) : Statement (.rfWReq0Lo d v) := ⟨rfl, by simp [encode]⟩

theorem rfWReq0Hi (d : DevId) (v : Byte) : Statement (.rfWReq0Hi d v) := ⟨rfl, by simp [encode]⟩

theorem rfWReq1Lo (d : DevId) (v : Byte) : Statement (.rfWReq1Lo d v) := ⟨rfl, by simp [encode]⟩

theorem rfWReq1Hi (d : DevId) (v : Byte) : Statement (.rfWReq1Hi d v) := ⟨rfl, by simp [encode]⟩

theorem rfWStartTrig (d : DevId) (v : Byte) : Statement (.rfWStartTrig d v) := ⟨rfl, by simp [encode]⟩

theorem rfWNone (d : DevId) (r : RegAddr) (v : Byte) : Statement (.rfWNone d r v) := ⟨rfl, by simp [encode]⟩

theorem rfRAct0Lo (d : DevId) : Statement (.rfRAct0Lo d) := ⟨rfl, by simp [encode]⟩

theorem rfRAct0Hi (d : DevId) : Statement (.rfRAct0Hi d) := ⟨rfl, by simp [encode]⟩

theorem rfRAct1Lo (d : DevId) : Statement (.rfRAct1Lo d) := ⟨rfl, by simp [encode]⟩

theorem rfRAct1Hi (d : DevId) : Statement (.rfRAct1Hi d) := ⟨rfl, by simp [encode]⟩

theorem rfRNone (d : DevId) (r : RegAddr) : Statement (.rfRNone d r) := ⟨rfl, by simp [encode]⟩

theorem dwIdle (d : DevId) (v : Byte) : Statement (.dwIdle d v) := ⟨rfl, by simp [encode]⟩

theorem dwSingle (d : DevId) (v : Byte) : Statement (.dwSingle d v) := ⟨rfl, by simp [encode]⟩

theorem dwBlockCount (d : DevId) (v : Byte) : Statement (.dwBlockCount d v) := ⟨rfl, by simp [encode]⟩

theorem dwBlockRw (d : DevId) (v : Byte) : Statement (.dwBlockRw d v) := ⟨rfl, by simp [encode]⟩

theorem dwInvalid (d : DevId) (v : Byte) : Statement (.dwInvalid d v) := ⟨rfl, by simp [encode]⟩

theorem drIdle (d : DevId) : Statement (.drIdle d) := ⟨rfl, by simp [encode]⟩

theorem drSingle (d : DevId) : Statement (.drSingle d) := ⟨rfl, by simp [encode]⟩

theorem drBlockCount (d : DevId) : Statement (.drBlockCount d) := ⟨rfl, by simp [encode]⟩

theorem drBlockRw (d : DevId) : Statement (.drBlockRw d) := ⟨rfl, by simp [encode]⟩

theorem drInvalid (d : DevId) : Statement (.drInvalid d) := ⟨rfl, by simp [encode]⟩

theorem dstop (d : DevId) : Statement (.dstop d) := ⟨rfl, by simp [encode]⟩

theorem hostRdReq (i : SlotId) : Statement (.hostRdReq i) := ⟨rfl, by simp [encode]⟩

theorem hostRdEn (i : SlotId) : Statement (.hostRdEn i) := ⟨rfl, by simp [encode]⟩

theorem hostWrAct (i : SlotId) (x : Tach) : Statement (.hostWrAct i x) := ⟨rfl, by simp [encode]⟩

theorem hostTacStart : Statement .hostTacStart := ⟨rfl, by simp [encode]⟩

theorem hostTacRpm : Statement .hostTacRpm := ⟨rfl, by simp [encode]⟩

end Sys2Proof.Laws.FrameShape
end

