-- ==== Sys2Proof/Laws/Sides.lean ====
section
/-! SUPPORT. The two sides of the block (spec/20_memory.md R72): agreement on a side is an equivalence, every operation
of the device layer stays on the side of its device and respects agreement there. -/

namespace Sys2Proof.Machine

theorem SameSide.refl (b : BusId) (s : State) : SameSide b s s := by constructor <;> intros <;> rfl

theorem SameSide.symm {b : BusId} {s t : State} (h : SameSide b s t) : SameSide b t s where
  bus := h.bus.symm
  dev d k := (h.dev d k).symm
  enabled j k := (h.enabled j k).symm
  requested j k := (h.requested j k).symm
  actual j k := (h.actual j k).symm
  start k := (h.start k).symm
  rpm k := (h.rpm k).symm
  draws := h.draws.symm

theorem SameSide.trans {b : BusId} {s t u : State} (h : SameSide b s t) (k : SameSide b t u) : SameSide b s u where
  bus := k.bus.trans h.bus
  dev d x := (k.dev d x).trans (h.dev d x)
  enabled j x := (k.enabled j x).trans (h.enabled j x)
  requested j x := (k.requested j x).trans (h.requested j x)
  actual j x := (k.actual j x).trans (h.actual j x)
  start x := (k.start x).trans (h.start x)
  rpm x := (k.rpm x).trans (h.rpm x)
  draws := k.draws.trans h.draws

/-- The slots of a device belong to its bus. -/
theorem slot_bus {d : DevId} {j : SlotId} (h : j.val = slot0 d ∨ j.val = slot1 d) : slotBus j = busOf d := by
  apply Fin.ext
  simp only [slotBus, busOf, slot0, slot1] at *
  omega

/-- An operation of a device stays on the device's side. -/
theorem DevEffect.otherSide {d : DevId} {s t : State} (h : DevEffect d s t) {b' : BusId} (hb : b' ≠ busOf d) :
    SameSide b' s t where
  bus := by unfold State.busAt; rw [h.bus]
  dev d' k := h.otherDev d' (by rintro rfl; exact hb k.symm)
  enabled j k := h.enabled j (fun e => hb (k.symm.trans (slot_bus (.inl e)))) (fun e => hb (k.symm.trans (slot_bus (.inr e))))
  requested j k := h.requested j (fun e => hb (k.symm.trans (slot_bus (.inl e)))) (fun e => hb (k.symm.trans (slot_bus (.inr e))))
  actual j _ := by unfold State.actualAt; rw [h.actual]
  start k := h.start (by rintro rfl; exact hb k)
  rpm k := h.rpm (by rintro rfl; exact hb k)
  draws := h.draws b' hb

theorem modBus_otherSide (s : State) (b : BusId) (f) {b' : BusId} (hb : b' ≠ b) : SameSide b' s (s.modBus b f) := by
  constructor <;> intros <;> try rfl
  exact busAt_modBus_of_ne s f hb

theorem onlySide_modBus (s : State) (b : BusId) (f) : OnlySide b s (s.modBus b f) :=
  ⟨fun _ h => modBus_otherSide s b f h, rfl, rfl, rfl⟩

theorem SameSide.modBus {b : BusId} {s t : State} (h : SameSide b s t) (f g : BusCtx → BusCtx) (hfg : f = g) :
    SameSide b (s.modBus b f) (t.modBus b g) := by
  subst hfg
  exact ⟨by simp [h.bus], h.dev, h.enabled, h.requested, h.actual, h.start, h.rpm, h.draws⟩

theorem SameSide.modDev {b : BusId} {d : DevId} (hd : busOf d = b) {s t : State} (h : SameSide b s t) (f : DevCtx → DevCtx) :
    SameSide b (s.modDev d f) (t.modDev d f) := by
  refine ⟨h.bus, fun d' k => ?_, h.enabled, h.requested, h.actual, h.start, h.rpm, h.draws⟩
  by_cases hh : d' = d
  · subst hh; simp [h.dev d' k]
  · rw [devAt_modDev_of_ne _ _ hh, devAt_modDev_of_ne _ _ hh]; exact h.dev d' k

theorem SameSide.writeEnabled {b : BusId} {s t : State} (h : SameSide b s t) (i : Nat) (v : Bool) :
    SameSide b (s.writeEnabled i v) (t.writeEnabled i v) := by
  refine ⟨by simp [h.bus], fun d' k => by simp [h.dev d' k],
    fun j k => by simp only [writeEnabled_get]; rw [h.enabled j k], fun j k => by simp [h.requested j k],
    fun j k => by simp [h.actual j k], fun k => by simp [h.start k],
    fun k => by simp [h.rpm k], by simp [h.draws]⟩

theorem SameSide.writeRequested {b : BusId} {s t : State} (h : SameSide b s t) (i : Nat) (v : Tach) :
    SameSide b (s.writeRequested i v) (t.writeRequested i v) := by
  refine ⟨by simp [h.bus], fun d' k => by simp [h.dev d' k], fun j k => by simp [h.enabled j k],
    fun j k => by simp only [writeRequested_get]; rw [h.requested j k], fun j k => by simp [h.actual j k],
    fun k => by simp [h.start k], fun k => by simp [h.rpm k], by simp [h.draws]⟩

theorem SameSide.setRpm {b : BusId} {s t : State} (h : SameSide b s t) (v : Bool) :
    SameSide b (s.setRpm v) (t.setRpm v) :=
  ⟨h.bus, h.dev, h.enabled, h.requested, h.actual, h.start, fun _ => rfl, h.draws⟩
theorem SameSide.setStart {b : BusId} {s t : State} (h : SameSide b s t) (v : Bool) :
    SameSide b (s.setStart v) (t.setStart v) :=
  ⟨h.bus, h.dev, h.enabled, h.requested, h.actual, fun _ => rfl, h.rpm, h.draws⟩

theorem SameSide.rfWrite {b : BusId} {d : DevId} (hd : busOf d = b) {s t : State} (h : SameSide b s t) (r : RegAddr) (v : Byte) :
    SameSide b (rfWrite d r v s) (rfWrite d r v t) := by
  unfold Sys2Proof.Machine.rfWrite
  split_ifs
  · exact h.modDev hd _
  · exact (h.writeEnabled _ _).writeEnabled _ _
  · exact h.modDev hd _
  · rw [rfWriteReq0Hi, rfWriteReq0Hi, h.dev d hd]; exact h.writeRequested _ _
  · exact h.modDev hd _
  · rw [rfWriteReq1Hi, rfWriteReq1Hi, h.dev d hd]; split
    · exact (h.writeRequested _ _).setRpm _
    · exact h.writeRequested _ _
  · rw [rfWriteStartTrig, rfWriteStartTrig]; split
    · exact h.setStart _
    · exact h
  · exact h

theorem SameSide.rfRead {b : BusId} {d : DevId} (hd : busOf d = b) {s t : State} (h : SameSide b s t) (r : RegAddr) :
    (rfRead d r t).1 = (rfRead d r s).1 ∧ SameSide b (rfRead d r s).2 (rfRead d r t).2 := by
  have ha : ∀ i p, (i = slot0 d ∨ i = slot1 d) → t.actualByte i p = s.actualByte i p := by
    intro i p hi
    unfold State.actualByte
    split
    · rename_i hlt
      rw [h.actual ⟨i, hlt⟩ (by rw [← hd]; exact slot_bus hi)]
    · rfl
  unfold Sys2Proof.Machine.rfRead
  split_ifs
  · exact ⟨ha _ _ (.inl rfl), h⟩
  · exact ⟨ha _ _ (.inl rfl), h⟩
  · exact ⟨ha _ _ (.inr rfl), h⟩
  · exact ⟨ha _ _ (.inr rfl), h⟩
  · refine ⟨by simp only [rfReadNone, State.drawAny8]; rw [hd, h.draws], ⟨h.bus, h.dev, h.enabled, h.requested, h.actual, h.start, h.rpm, ?_⟩⟩
    subst hd
    rw [rfReadNone, rfReadNone, drawAny8_drawsAt_self, drawAny8_drawsAt_self, h.draws]

theorem SameSide.devWrite {b : BusId} {d : DevId} (hd : busOf d = b) {s t : State} (h : SameSide b s t) (v : Byte) :
    SameSide b (devWrite d v s) (devWrite d v t) := by
  unfold Sys2Proof.Machine.devWrite
  rw [h.dev d hd]
  split
  · exact h.modDev hd _
  · rw [dwSingleOp, dwSingleOp, h.dev d hd]; exact (h.rfWrite hd _ _).modDev hd _
  · exact h.modDev hd _
  · rw [dwBlockRwOp, dwBlockRwOp, h.dev d hd]; exact (h.rfWrite hd _ _).modDev hd _
  · exact h

theorem SameSide.devRead {b : BusId} {d : DevId} (hd : busOf d = b) {s t : State} (h : SameSide b s t) :
    (devRead d t).1 = (devRead d s).1 ∧ SameSide b (devRead d s).2 (devRead d t).2 := by
  unfold Sys2Proof.Machine.devRead
  rw [h.dev d hd]
  split
  · exact ⟨rfl, h⟩
  · rw [drSingleOp, drSingleOp, h.dev d hd]; refine ⟨by simp [(h.rfRead hd _).1], ?_⟩; dsimp only; exact (h.rfRead hd _).2.modDev hd _
  · rw [drBlockCountOp, drBlockCountOp, h.dev d hd]; refine ⟨rfl, ?_⟩; dsimp only; exact h.modDev hd _
  · rw [drBlockRwOp, drBlockRwOp, h.dev d hd]; refine ⟨by simp [(h.rfRead hd _).1], ?_⟩; dsimp only; exact (h.rfRead hd _).2.modDev hd _
  · exact ⟨rfl, h⟩

theorem SameSide.withInputs {b : BusId} {s t : State} (h : SameSide b s t) (x y : List Input) :
    SameSide b { s with inputs := x } { t with inputs := y } :=
  ⟨h.bus, h.dev, h.enabled, h.requested, h.actual, h.start, h.rpm, h.draws⟩

/-- States that agree on both sides, and in the inputs and the answer, are equal. -/
theorem eq_of_sides {s t : State} (h : ∀ b, SameSide b s t) (ha : t.answer = s.answer) (hi : t.inputs = s.inputs) :
    t = s := by
  have hb := bus_eq_of_busAt fun b => (h b).bus
  have hd := dev_eq_of_devAt fun d => (h (busOf d)).dev d rfl
  have ht : t.tel = s.tel := by
    ext1
    · apply Vector.ext; intro i hi; exact (h _).enabled ⟨i, hi⟩ rfl
    · apply Vector.ext; intro i hi; exact (h _).requested ⟨i, hi⟩ rfl
    · apply Vector.ext; intro i hi; exact (h _).actual ⟨i, hi⟩ rfl
    · exact (h 1).start rfl
    · exact (h 1).rpm rfl
  have hw : t.draws = s.draws := by apply Vector.ext; intro i hi; exact (h ⟨i, hi⟩).draws
  cases s; cases t; simp_all

end Sys2Proof.Machine
end

