-- ==== Sys2Proof/Tests/Slice0.lean ====
section
/-! SUPPORT. The model's own tests: each check of WellFormed refuses an ill-formed term; the word of every row of
spec/opcode_table.json that has an encoding, written out from it, decodes to its operation (the others by the model's
numbers, assumption log 3); one-step vectors of
spec/95_test_vectors.md part 2 (the row is named in each docstring); and for every statement with hypotheses a
state and operands that meet them together. -/

namespace Sys2Proof.Tests

open Sys2Proof Sys2Proof.Machine

/-! ## WellFormed refuses -/

theorem test_wf_refuses_ignored_start_in_idle : (Instr.evDatNopScl1 0 .idle).wf = false := by decide

theorem test_wf_refuses_ignored_start_in_write : (Instr.evDatNopScl1 1 .write).wf = false := by decide

theorem test_wf_refuses_guard_at_the_armed_level : (Instr.clkGuard 0 .address true false).wf = false := by decide

theorem test_wf_refuses_guard_where_either_level_is_inert : (Instr.clkGuard 0 .waitStop true false).wf = false := by
  decide

theorem test_wf_refuses_mismatch_of_a_family_address : (Instr.addrNoMatch 0 0xA6).wf = false := by decide

theorem test_wf_refuses_hole_at_a_written_register : (Instr.rfWNone 0 0x2D 0x55).wf = false := by decide

theorem test_wf_refuses_hole_at_a_read_register : (Instr.rfRNone 0 0x4A).wf = false := by decide

/-! ## Decoding, row by row: the words are the table's `encoding` columns; the DEVOP and PORT rows have none there
(R105), and theirs are the model's numbers (assumption log 3) -/

theorem test_decode_disp7_data_rows :
    decode [0, 1, 0b00100111] = .ok (.evStop 1 .read) ∧
    decode [0, 0, 0b00000110] = .ok (.evStartIdle 0) ∧
    decode [0, 0, 0b00111110] = .ok (.evStartWrite 0) ∧
    decode [0, 0, 0b01001110] = .ok (.evDatNopScl1 0 .waitStop) ∧
    decode [0, 0, 0b00111101] = .ok (.evDatNopScl0 0 .write true) := by decide

theorem test_decode_disp7_clock_rows :
    decode [0, 0, 0b00001011] = .ok (.addrShift 0 true) ∧
    decode [0, 0, 0b00010000] = .ok (.addrAck 0 false) ∧
    decode [0, 0, 0b00011001] = .ok (.rdPrep 0 true) ∧
    decode [0, 0, 0b00100000] = .ok (.rdBit 0 false) ∧
    decode [0, 0, 0b00101001] = .ok (.rdAck 0 true) ∧
    decode [0, 0, 0b00110000] = .ok (.wrPrep 0 false) ∧
    decode [0, 0, 0b00111010] = .ok (.wrShift 0 false) ∧
    decode [0, 0, 0b01000001] = .ok (.wrAck 0 true) ∧
    decode [0, 0, 0b00000010] = .ok (.clkInertIdle 0 true false) ∧
    decode [0, 0, 0b01001001] = .ok (.clkInertWaitStop 0 false true) ∧
    decode [0, 0, 0b00001001] = .ok (.clkGuard 0 .address false true) := by decide

theorem test_decode_reserved_state_codes_rejected :
    decode [0, 0, 0b01010000] = .bad (.reservedStateCode 0x50) ∧
    decode [0, 0, 0b01111111] = .bad (.reservedStateCode 0x7F) ∧
    decode [0, 0, 0b10000000] = .bad (.wordTooWide 0x80) ∧ decode [0, 2, 0] = .bad (.noSuchBus 2) ∧
    decode [7] = .bad (.unknownFormat 7) ∧ decode [] = .bad .empty := by decide

theorem test_decode_addr8_family_rows :
    decode [1, 0, 0b10100100] = .ok (.addrFamW 0 0b10) ∧
    decode [1, 1, 0b10100011] = .ok (.addrFamR 1 0b01) := by decide

/-- The auxiliary rows, whatever `AUX_ADDR` is. -/
theorem test_decode_addr8_auxiliary_rows :
    decode [1, 0, Config.auxAddr ++ 0#1] = .ok (.addrAuxW 0) ∧
    decode [1, 1, Config.auxAddr ++ 1#1] = .ok (.addrAuxR 1) := by
  have h0 := auxByte_facts false
  have h1 := auxByte_facts true
  have hne : addrByte Config.auxAddr true ≠ addrByte Config.auxAddr false := by
    intro h
    have : ∀ a : DevAddr, (addrByte a true).getLsbD 0 = true ∧ (addrByte a false).getLsbD 0 = false := by decide
    have h' := (this Config.auxAddr).1
    rw [h, (this Config.auxAddr).2] at h'
    cases h'
  have e0 : addr8Row 0 (addrByte Config.auxAddr false) = .addrAuxW 0 := by
    rw [addr8Row, if_neg h0.1, if_neg h0.2, if_pos rfl]
  have e1 : addr8Row 1 (addrByte Config.auxAddr true) = .addrAuxR 1 := by
    rw [addr8Row, if_neg h1.1, if_neg h1.2, if_neg hne, if_pos rfl]
  exact ⟨congrArg Decoded.ok e0, congrArg Decoded.ok e1⟩

/-- 0x60 (7-bit 0x30) matches nothing unless it is the auxiliary address. -/
theorem test_decode_addr8_mismatch_row (h : Config.auxAddr ≠ 0x30#7) :
    decode [1, 0, 0b01100000] = .ok (.addrNoMatch 0 0x60) := by
  have hn : ∀ rw, (0x60 : Byte) ≠ addrByte Config.auxAddr rw := by
    intro rw e
    have : ∀ (a : DevAddr) (x : Bool), (0x60 : Byte) = addrByte a x → a = 0x30#7 := by decide
    exact h (this _ _ e)
  have e : addr8Row 0 0x60 = .addrNoMatch 0 0x60 := by
    rw [addr8Row, if_neg (by decide), if_neg (by decide), if_neg (hn false), if_neg (hn true)]
  exact congrArg Decoded.ok e

theorem test_decode_cmd8_rows :
    decode [2, 0, 0b00101010] = .ok (.cmdSingle 0 0x2A) ∧
    decode [2, 5, 0b11111111] = .ok (.cmdBlock 5 0x7F) := by decide

theorem test_decode_reg7w_rows :
    decode [3, 0, 0b00000000, 0x04] = .ok (.rfWRdcnt 0 0x04) ∧
    decode [3, 0, 0b00000111, 0x40] = .ok (.rfWEnable 0 0x40) ∧
    decode [3, 0, 0b00101010, 0x05] = .ok (.rfWReq0Lo 0 0x05) ∧
    decode [3, 0, 0b00101011, 0x27] = .ok (.rfWReq0Hi 0 0x27) ∧
    decode [3, 0, 0b00101100, 0x00] = .ok (.rfWReq1Lo 0 0x00) ∧
    decode [3, 6, 0b00101101, 0x27] = .ok (.rfWReq1Hi 6 0x27) ∧
    decode [3, 6, 0b00111100, 0x01] = .ok (.rfWStartTrig 6 0x01) ∧
    decode [3, 0, 0b01001010, 0x55] = .ok (.rfWNone 0 0x4A 0x55) := by decide

theorem test_decode_reg7r_rows :
    decode [4, 0, 0b01001010] = .ok (.rfRAct0Lo 0) ∧
    decode [4, 0, 0b01001011] = .ok (.rfRAct0Hi 0) ∧
    decode [4, 0, 0b01001100] = .ok (.rfRAct1Lo 0) ∧
    decode [4, 5, 0b01001101] = .ok (.rfRAct1Hi 5) ∧
    decode [4, 0, 0b01001110] = .ok (.rfRNone 0 0x4E) := by decide

theorem test_decode_devop_rows :
    decode [5, 0, 0, 0xAA] = .ok (.dwIdle 0 0xAA) ∧ decode [5, 1, 1, 5] = .ok (.dwSingle 1 5) ∧
    decode [5, 2, 2, 4] = .ok (.dwBlockCount 2 4) ∧ decode [5, 3, 3, 1] = .ok (.dwBlockRw 3 1) ∧
    decode [5, 4, 4, 9] = .ok (.dwInvalid 4 9) ∧ decode [5, 5, 5] = .ok (.drIdle 5) ∧
    decode [5, 6, 6] = .ok (.drSingle 6) ∧ decode [5, 7, 7] = .ok (.drBlockCount 7) ∧
    decode [5, 0, 8] = .ok (.drBlockRw 0) ∧ decode [5, 0, 9] = .ok (.drInvalid 0) ∧
    decode [5, 0, 10] = .ok (.dstop 0) := by decide

theorem test_decode_port_rows :
    decode [6, 0, 12] = .ok (.hostRdReq 12) ∧ decode [6, 1, 9] = .ok (.hostRdEn 9) ∧
    decode [6, 2, 2, 0x02, 0x01] = .ok (.hostWrAct 2 0x0102) ∧ decode [6, 3] = .ok .hostTacStart ∧
    decode [6, 4] = .ok .hostTacRpm ∧ decode [6, 0, 14] = .bad (.noSuchSlot 14) := by decide

/-- A bare table word is read and placed as the same operation (assumption log 4). -/
theorem test_table_word_is_read_and_placed :
    decodeTableWord 7 0x0B = some (.addrShift 0 true) ∧
    step (State.reset.withFetchWord 7 0x0B) =
      exec (.addrShift 0 true) { State.reset.withFetchWord 7 0x0B with inputs := [] } := by
  exact ⟨by decide, rfl⟩

/-! ## One-step vectors (spec/95_test_vectors.md part 2) -/

/-- The outcome is a next state in which `p` holds. -/
def ran (o : Outcome) (p : State → Bool) : Bool :=
  match o with
  | .next t => p t
  | .fault _ => false
  | .refused _ => false

/-- A reset state but for bus 0. -/
def onBus (B : BusCtx) : State := State.reset.modBus 0 fun _ => B

/-- A reset state but for one device. -/
def onDev (d : DevId) (D : DevCtx) : State := State.reset.modDev d fun _ => D

/-- A bus context in a state, with an arming and a monitoring mode, all else as after reset. -/
def ctx (st : BusState) (arm : SclArm) (mon : SdaMon) : BusCtx :=
  { BusCtx.reset with state := st, sclArm := arm, sdaMon := mon }

/-- One event of bus 0. -/
def event (s : State) (line : Line) (scl sda : Bool) : Outcome :=
  step { s with inputs := [.event 0 line scl sda] }

/-- EV.STOP, first row: no address matched yet. -/
theorem test_stop_without_match :
    ran (event (onBus (ctx .address .rise .both)) .data true true)
      (fun t => t.busAt 0 == ctx .idle .rise .fall) = true := by decide

/-- EV.STOP, second row: the device matched last is told. -/
theorem test_stop_tells_the_device :
    ran (exec (.evStop 0 .write)
        ((onDev 0 ⟨.single, 0x2A, 0, 0, 0⟩).modBus 0 fun _ =>
          { ctx .write .rise .both with maddr := famByte 3 false, maddrValid := true }))
      (fun t => (t.devAt 0).dstate == .idle && (t.busAt 0).state == .idle && (t.busAt 0).sdaMon == .fall) = true := by
  simp only [exec, execEvStop, stopOp_eq, tellStop, busAt_modBus_self, onStop, route_family]
  decide

/-- EV.START, first row. -/
theorem test_start_in_idle :
    ran (event (onBus { ctx .idle .fall .fall with bitcnt := 8, addr := 0xA7 }) .data true false)
      (fun t => t.busAt 0 == ctx .address .rise .both) = true := by decide

/-- EV.START, second row: `data` stays. -/
theorem test_start_in_write :
    ran (event (onBus { ctx .write .rise .both with bitcnt := 1, data := 0x01, addr := 0xA6 }) .data true false)
      (fun t => t.busAt 0 == { ctx .address .rise .both with data := 0x01 }) = true := by decide

/-- EV.DAT.NOP, first and third row. -/
theorem test_data_events_without_effect :
    ran (event (onBus (ctx .waitStop .rise .both)) .data true false)
      (fun t => t == onBus (ctx .waitStop .rise .both)) = true ∧
    ran (event (onBus (ctx .write .rise .both)) .data false true)
      (fun t => t == onBus (ctx .write .rise .both)) = true := by decide

/-- EV.STOP, fourth row: not delivered while monitoring is off. -/
theorem test_data_event_not_delivered :
    ran (event (onBus (ctx .read .fall .off)) .data true true)
      (fun t => t == onBus (ctx .read .fall .off)) = true := by decide

/-- CLK.GUARD, both rows. -/
theorem test_clock_guard :
    ran (event (onBus (ctx .address .rise .both)) .clock false true)
      (fun t => t == onBus (ctx .address .rise .both)) = true ∧
    ran (event (onBus (ctx .writeAck .fall .both)) .clock true false)
      (fun t => t == onBus (ctx .writeAck .fall .both)) = true := by decide

/-- CLK.INERT, both rows. -/
theorem test_clock_inert :
    ran (event (onBus (ctx .idle .rise .fall)) .clock true false)
      (fun t => t == onBus (ctx .idle .rise .fall)) = true ∧
    ran (event (onBus (ctx .waitStop .fall .both)) .clock false true)
      (fun t => t == onBus (ctx .waitStop .fall .both)) = true := by decide

/-- ADDR.SHIFT, first row. -/
theorem test_address_bit :
    ran (event (onBus (ctx .address .rise .both)) .clock true true)
      (fun t => t.busAt 0 == { ctx .address .rise .both with bitcnt := 1, addr := 0x01 }) = true := by decide

/-- ADDR.SHIFT, match. -/
theorem test_address_match :
    ran (event (onBus { ctx .address .rise .both with bitcnt := 7, addr := 0x53 }) .clock true false)
      (fun t => t.busAt 0 == { ctx .addressAck .fall .both with
        bitcnt := 8, addr := 0xA6, maddr := 0xA6, maddrValid := true }) = true := by decide

/-- ADDR.ACK, both rows. -/
theorem test_address_ack :
    ran (event (onBus { ctx .addressAck .fall .both with addr := 0xA6 }) .clock false false)
      (fun t => t.busAt 0 == { ctx .writePrepare .fall .both with addr := 0xA6, sdaDir := .out }) = true ∧
    ran (event (onBus { ctx .addressAck .fall .both with addr := 0xA7 }) .clock false true)
      (fun t => t.busAt 0 == { ctx .readPrepare .fall .both with addr := 0xA7, sdaDir := .out }) = true := by
  decide

/-- RD.PREP. -/
theorem test_read_prepare :
    ran (exec (.rdPrep 0 false)
        (((onDev 0 ⟨.single, 0x4B, 0, 0, 0⟩).writeActual 0 0x1234).modBus 0 fun _ =>
          { ctx .readPrepare .fall .both with addr := famByte 3 true }))
      (fun t => t.busAt 0 == { ctx .read .fall .off with
          addr := 0xA7, bitcnt := 1, data := 0x24, last := true, sdaDir := .out } &&
        t.devAt 0 == ⟨.invalid, 0x4B, 0, 0, 0⟩) = true := by
  simp only [exec, execRdPrep, rdPrepOp_eq, busAt_modBus_self, onByteRequested, route_family]
  decide

/-- RD.BIT, both rows. -/
theorem test_read_bit :
    ran (event (onBus { ctx .read .fall .off with bitcnt := 2, data := 0xD0 }) .clock false false)
      (fun t => t.busAt 0 == { ctx .read .fall .off with bitcnt := 3, data := 0xA0, sdaDrv := true }) = true ∧
    ran (event (onBus { ctx .read .fall .off with bitcnt := 7, data := 0x80 }) .clock false true)
      (fun t => t.busAt 0 == { ctx .readAck .fall .off with bitcnt := 8, sdaDrv := true }) = true := by decide

/-- RD.ACK, both rows. -/
theorem test_read_ack :
    ran (event (onBus { ctx .readAck .fall .off with last := true, sdaDir := .out }) .clock false false)
      (fun t => t.busAt 0 == { ctx .waitStop .fall .both with last := true }) = true ∧
    ran (event (onBus { ctx .readAck .fall .off with sdaDir := .out }) .clock false false)
      (fun t => t.busAt 0 == ctx .readPrepare .fall .off) = true := by decide

/-- WR.PREP. -/
theorem test_write_prepare :
    ran (event (onBus { ctx .writePrepare .fall .both with bitcnt := 8, data := 0x2A, sdaDir := .out }) .clock false
        false)
      (fun t => t.busAt 0 == ctx .write .rise .both) = true := by decide

/-- WR.SHIFT, both rows. -/
theorem test_write_bit :
    ran (event (onBus { ctx .write .rise .both with bitcnt := 4, data := 0x02 }) .clock true true)
      (fun t => t.busAt 0 == { ctx .write .rise .both with bitcnt := 5, data := 0x05 }) = true ∧
    ran (event (onBus { ctx .write .rise .both with bitcnt := 7, data := 0x15 }) .clock true false)
      (fun t => t.busAt 0 == { ctx .writeAck .fall .both with bitcnt := 8, data := 0x2A }) = true := by decide

/-- WR.ACK. -/
theorem test_write_ack :
    ran (exec (.wrAck 0 false)
        (State.reset.modBus 0 fun _ => { ctx .writeAck .fall .both with addr := famByte 3 false, data := 0x2A }))
      (fun t => t.busAt 0 == { ctx .writePrepare .fall .both with
          addr := 0xA6, data := 0x2A, sdaDir := .out } &&
        t.devAt 0 == ⟨.single, 0x2A, 0, 0, 0⟩) = true := by
  simp only [exec, execWrAck, wrAckOp_eq, deliverByte, busAt_modBus_self, onByteWritten, route_family]
  decide

/-- 2.2: A6 and A3 are matched and acknowledged. -/
theorem test_family_address_rows :
    ran (exec (.addrFamW 0 3) (onBus (ctx .address .rise .both)))
      (fun t => t.busAt 0 == { ctx .writePrepare .fall .both with
        addr := 0xA6, bitcnt := 8, maddr := 0xA6, maddrValid := true, sdaDir := .out }) = true ∧
    ran (exec (.addrFamR 0 1) (onBus (ctx .address .rise .both)))
      (fun t => t.busAt 0 == { ctx .readPrepare .fall .both with
        addr := 0xA3, bitcnt := 8, maddr := 0xA3, maddrValid := true, sdaDir := .out }) = true := by decide

/-- 2.2: the routing of the family, bus 0 A6 and A0, bus 1 A6, A2 and A0. -/
theorem test_family_routes :
    route 0 (famByte 3 false) = .dev 0 ∧ route 0 (famByte 0 false) = .dev 3 ∧
    route 1 (famByte 3 true) = .dev 4 ∧ route 1 (famByte 1 false) = .dev 6 ∧ route 1 (famByte 0 true) = .dev 7 := by
  simp only [route_family]
  decide

/-- The two command rows, with 2.3's DW.IDLE values. -/
theorem test_command_rows :
    ran (exec (.cmdSingle 0 0x2A) State.reset) (fun t => t.devAt 0 == ⟨.single, 0x2A, 0, 0, 0⟩) = true ∧
    ran (exec (.cmdBlock 0 0x2A) State.reset) (fun t => t.devAt 0 == ⟨.blockCount, 0x2A, 0, 0, 0⟩) = true := by
  decide

/-- DW.IDLE, third row. -/
theorem test_command_byte :
    ran (exec (.dwIdle 0 0xFF) State.reset) (fun t => t.devAt 0 == ⟨.blockCount, 0x7F, 0, 0, 0⟩) = true := by
  decide

/-- DW.SINGLE. -/
theorem test_single_write :
    ran (exec (.dwSingle 0 0x05) (onDev 0 ⟨.single, 0x2A, 0, 0, 0⟩))
      (fun t => t.devAt 0 == ⟨.invalid, 0x2A, 0, 0x05, 0⟩) = true := by decide

/-- DW.BLOCK_COUNT, both rows. -/
theorem test_block_count :
    ran (exec (.dwBlockCount 0 0x04) (onDev 0 ⟨.blockCount, 0x2A, 0, 0, 0⟩))
      (fun t => t.devAt 0 == ⟨.blockRw, 0x2A, 0x04, 0, 0⟩) = true ∧
    ran (exec (.dwBlockCount 0 0x00) (onDev 0 ⟨.blockCount, 0x2A, 0, 0, 0⟩))
      (fun t => t.devAt 0 == ⟨.invalid, 0x2A, 0x00, 0, 0⟩) = true := by decide

/-- DW.BLOCK_RW, final. -/
theorem test_block_write_final :
    ran (exec (.dwBlockRw 0 0x04) (onDev 0 ⟨.blockRw, 0x2D, 0x01, 0x00, 0⟩))
      (fun t => t.devAt 0 == ⟨.invalid, 0x2E, 0x00, 0x00, 0⟩ && t.requestedAt 1 == 0x0400) = true := by decide

/-- DW.BLOCK_RW, wrap. -/
theorem test_block_write_wraps :
    ran (exec (.dwBlockRw 0 0x01) (onDev 0 ⟨.blockRw, 0x7F, 0x03, 0, 0⟩))
      (fun t => t.devAt 0 == ⟨.blockRw, 0x00, 0x02, 0, 0⟩) = true := by decide

/-- DW.INVALID, DR.IDLE, DR.INVALID. -/
theorem test_out_of_turn :
    ran (exec (.dwInvalid 0 0x99) (onDev 0 ⟨.invalid, 0x2E, 0, 0, 0⟩))
      (fun t => t == onDev 0 ⟨.invalid, 0x2E, 0, 0, 0⟩) = true ∧
    ran (exec (.drIdle 0) State.reset)
      (fun t => t.answer == .reply 0x00 true && (t.devAt 0).dstate == .idle) = true ∧
    ran (exec (.drInvalid 0) (onDev 0 ⟨.invalid, 0x2A, 0, 0, 0⟩))
      (fun t => t.answer == .reply 0x00 true && (t.devAt 0).dstate == .invalid) = true := by decide

/-- DR.SINGLE. -/
theorem test_single_read :
    ran (exec (.drSingle 0) ((onDev 0 ⟨.single, 0x4A, 0, 0, 0⟩).writeActual 0 0x1234))
      (fun t => t.answer == .reply 0x34 true && (t.devAt 0).dstate == .invalid) = true := by decide

/-- DR.BLOCK_COUNT, both rows. -/
theorem test_block_read_count :
    ran (exec (.drBlockCount 0) (onDev 0 ⟨.blockCount, 0x4A, 0, 0, 0x04⟩))
      (fun t => t.answer == .reply 0x04 false && t.devAt 0 == ⟨.blockRw, 0x4A, 0x04, 0, 0x04⟩) = true ∧
    ran (exec (.drBlockCount 0) (onDev 0 ⟨.blockCount, 0x4A, 0, 0, 0⟩))
      (fun t => t.answer == .reply 0x00 true && t.devAt 0 == ⟨.invalid, 0x4A, 0, 0, 0⟩) = true := by decide

/-- DR.BLOCK_RW, first row. -/
theorem test_block_read :
    ran (exec (.drBlockRw 0) ((onDev 0 ⟨.blockRw, 0x4A, 0x04, 0, 0⟩).writeActual 0 0x1234))
      (fun t => t.answer == .reply 0x34 false && t.devAt 0 == ⟨.blockRw, 0x4B, 0x03, 0, 0⟩) = true := by decide

/-- DR.BLOCK_RW, final. -/
theorem test_block_read_final :
    ran (exec (.drBlockRw 0) ((onDev 0 ⟨.blockRw, 0x4D, 0x01, 0, 0⟩).writeActual 1 0xBEEF))
      (fun t => t.answer == .reply 0xBE true && t.devAt 0 == ⟨.invalid, 0x4E, 0x00, 0, 0⟩) = true := by decide

/-- DSTOP. -/
theorem test_device_stop :
    ran (exec (.dstop 3) (onDev 3 ⟨.blockRw, 0x2A, 0x03, 0x05, 0x04⟩))
      (fun t => t.devAt 3 == ⟨.idle, 0x2A, 0x03, 0x05, 0x04⟩) = true := by decide

/-- RF.W.RDCNT. -/
theorem test_write_read_count :
    ran (exec (.rfWRdcnt 2 0x04) State.reset) (fun t => (t.devAt 2).rdcnt == 0x04) = true := by decide

/-- RF.W.ENABLE, both rows. -/
theorem test_write_enable :
    ran (exec (.rfWEnable 1 0x40) ((State.reset.writeEnabled 2 true).writeEnabled 3 true))
      (fun t => t.enabledAt 2 && !t.enabledAt 3) = true ∧
    ran (exec (.rfWEnable 1 0xBF) State.reset) (fun t => !t.enabledAt 2 && t.enabledAt 3) = true := by decide

/-- RF.W.REQ0_LO, RF.W.REQ1_LO. -/
theorem test_write_low_bytes :
    ran (exec (.rfWReq0Lo 0 0x05) State.reset)
      (fun t => (t.devAt 0).stage == 0x05 && t.requestedAt 0 == 0) = true ∧
    ran (exec (.rfWReq1Lo 0 0x00) (onDev 0 ⟨.single, 0x2C, 0, 0x05, 0⟩))
      (fun t => (t.devAt 0).stage == 0x00) = true := by decide

/-- RF.W.REQ0_HI, second row. -/
theorem test_commit_first_slot :
    ran (exec (.rfWReq0Hi 4 0x27) (onDev 4 ⟨.single, 0x2B, 0, 0x10, 0⟩))
      (fun t => t.requestedAt 8 == 0x2710 && !t.tel.rpmUpdateRequested) = true := by decide

/-- RF.W.REQ1_HI, both rows. -/
theorem test_commit_second_slot :
    ran (exec (.rfWReq1Hi 0 0x04) State.reset)
      (fun t => t.requestedAt 1 == 0x0400 && !t.tel.rpmUpdateRequested) = true ∧
    ran (exec (.rfWReq1Hi 6 0x27) (onDev 6 ⟨.single, 0x2D, 0, 0x10, 0⟩))
      (fun t => t.requestedAt 13 == 0x2710 && t.tel.rpmUpdateRequested) = true := by decide

/-- RF.W.START_TRIG, both rows. -/
theorem test_start_trigger :
    ran (exec (.rfWStartTrig 6 0x00) State.reset) (fun t => t.tel.startRequested) = true ∧
    ran (exec (.rfWStartTrig 0 0x01) State.reset) (fun t => t == State.reset) = true := by decide

/-- RF.W.NONE, and device 7's writes. -/
theorem test_writes_without_effect :
    ran (exec (.rfWNone 0 0x4A 0x55) State.reset) (fun t => t == State.reset) = true ∧
    ran (exec (.rfWReq1Hi 7 0x55) State.reset) (fun t => t == State.reset) = true ∧
    ran (exec (.rfWEnable 7 0xFF) State.reset) (fun t => t == State.reset) = true := by decide

/-- RF.R.ACT0_LO, RF.R.ACT0_HI. -/
theorem test_read_first_slot :
    ran (exec (.rfRAct0Lo 1) (State.reset.writeActual 2 0x1234)) (fun t => t.answer == .byte 0x34) = true ∧
    ran (exec (.rfRAct0Hi 1) (State.reset.writeActual 2 0x1234)) (fun t => t.answer == .byte 0x12) = true := by
  decide

/-- RF.R.ACT1_LO, RF.R.ACT1_HI, and device 7. -/
theorem test_read_second_slot :
    ran (exec (.rfRAct1Lo 1) (State.reset.writeActual 3 0xBEEF)) (fun t => t.answer == .byte 0xEF) = true ∧
    ran (exec (.rfRAct1Hi 1) (State.reset.writeActual 3 0xBEEF)) (fun t => t.answer == .byte 0xBE) = true ∧
    ran (exec (.rfRAct1Hi 7) State.reset) (fun t => t.answer == .byte 0x00) = true := by decide

/-- RF.R.NONE: the byte is unspecified, a draw is counted. -/
theorem test_read_unspecified :
    ran (exec (.rfRNone 6 0x2A) State.reset) (fun t => t.drawsAt 1 == 1 && t.drawsAt 0 == 0) = true := by decide

/-- HOST.RD_REQ, HOST.RD_EN, HOST.WR_ACT. -/
theorem test_port_elements :
    ran (exec (.hostRdReq 12) (State.reset.writeRequested 12 0x1388)) (fun t => t.answer == .word 0x1388) = true ∧
    ran (exec (.hostRdEn 9) (State.reset.writeEnabled 9 true)) (fun t => t.answer == .flag true) = true ∧
    ran (exec (.hostWrAct 2 0x0102) State.reset) (fun t => t.actualAt 2 == 0x0102 && t.actualAt 3 == 0) = true := by
  decide

/-- HOST.TAC_START, HOST.TAC_RPM. -/
theorem test_port_flags :
    ran (exec .hostTacStart (State.reset.setStart true))
      (fun t => t.answer == .flag true && !t.tel.startRequested) = true ∧
    ran (exec .hostTacRpm ((State.reset.setStart true).setRpm true))
      (fun t => t.answer == .flag true && !t.tel.rpmUpdateRequested && t.tel.startRequested) = true := by decide

/-- V1, events 49 and 50: the block's own acknowledge makes the data wire fall, and that edge is reported. -/
theorem test_acknowledge_edge_is_reported :
    (match (PinState.mk (Vector.replicate 2 ⟨true, true⟩)
        (onBus { ctx .addressAck .fall .both with addr := 0xA6 }) []).drive 0 (.scl false) with
      | .next q => q.trace == [.event 0 .clock false true, .event 0 .data false false]
      | .fault _ => false
      | .refused _ => false) = true := by decide

/-- R104: a byte is nine clock pulses, the ninth with the master's output released. -/
theorem test_byte_waveform :
    (waveform (.send 0xA6)).length = 27 ∧
    (waveform (.send 0xA6)).take 6 = [.scl false, .sda true, .scl true, .scl false, .sda false, .scl true] ∧
    (waveform (.send 0xA6)).drop 24 = [.scl false, .sda true, .scl true] := by decide

/-! ## Witnesses: a state and operands that meet the hypotheses of each statement -/

/-- `AUX_ADDR` is not both of two addresses, so one of two mismatching bytes is a mismatch whatever it is. -/
theorem mismatch_exists : ∃ a : Byte, matchAddr (addr7 a) = false ∧ (a = 0x9E ∨ a = 0xA8) := by
  by_cases h : Config.auxAddr = 0x4F#7
  · exact ⟨0xA8, by rw [matchAddr, h]; decide, .inr rfl⟩
  · refine ⟨0x9E, ?_, .inl rfl⟩
    have hf : (decide (Config.devBase ≤ addr7 0x9E) && decide (addr7 0x9E ≤ Config.devBase + 3#7)) = false := by decide
    have ha : (addr7 0x9E == Config.auxAddr) = false := beq_false_of_ne (fun e => h (e.symm.trans (by decide)))
    rw [matchAddr, hf, ha]
    rfl

/-- Statement EncodedOperationsDecodeBack, one operation of every format, with the checked ones. -/
theorem witness_well_formed :
    (Instr.clkGuard 1 .write false true).wf = true ∧ (Instr.evDatNopScl1 0 .waitStop).wf = true ∧
    (Instr.addrFamR 1 3).wf = true ∧ (Instr.cmdBlock 7 0x7F).wf = true ∧ (Instr.rfWNone 0 0x4D 0).wf = true ∧
    (Instr.rfRNone 7 0x00).wf = true ∧ (Instr.dstop 7).wf = true ∧ (Instr.hostWrAct 13 0xFFFF).wf = true ∧
    ∃ a, (Instr.addrNoMatch 1 a).wf = true := by
  obtain ⟨a, ha, _⟩ := mismatch_exists
  exact ⟨by decide, by decide, by decide, by decide, by decide, by decide, by decide, by decide, a,
    by simp [Instr.wf, ha]⟩

/-- Statement DecodedFramesEncodeBack. -/
theorem witness_decoded_frame : ∃ bs i, decode bs = .ok i :=
  ⟨[5, 7, 3, 0x99], .dwBlockRw 7 0x99, by decide⟩

/-- Statement StepRunsTheDecodedOperation, an event of either line and a call. -/
theorem witness_decoded_step :
    (∃ s : State, s.inputs = .event 0 .data true false :: [] ∧ (s.busAt 0).pinsOk = true ∧ (s.busAt 0).sdaMon ≠ .off ∧
      decode (disp7Frame 0 (s.busAt 0).state .data true false) = .ok (.evStartIdle 0)) ∧
    (∃ s : State, s.inputs = .event 0 .clock false true :: [] ∧ (s.busAt 0).pinsOk = true ∧
      decode (disp7Frame 0 (s.busAt 0).state .clock false true) = .ok (.wrAck 0 true)) ∧
    ∃ s : State, s.inputs = .call [6, 4] :: [] ∧ decode [6, 4] = .ok .hostTacRpm :=
  ⟨⟨{ State.reset with inputs := [.event 0 .data true false] }, rfl, by decide, by decide, by decide⟩,
    ⟨{ onBus (ctx .writeAck .fall .both) with inputs := [.event 0 .clock false true] }, rfl, by decide, by decide⟩,
    ⟨{ State.reset with inputs := [.call [6, 4]] }, rfl, by decide⟩⟩

/-- Statement ClockEventsPassTheGuardOrChangeNothing, both clauses at both armings. -/
theorem witness_clock_events (scl : Bool) :
    (∃ s : State, s.inputs = .event 0 .clock scl true :: [] ∧
      (scl = true ∧ (s.busAt 0).sclArm = .fall ∨ scl = false ∧ (s.busAt 0).sclArm = .rise)) ∧
    ∃ s : State, s.inputs = .event 0 .clock scl true :: [] ∧
      (scl = true ∧ (s.busAt 0).sclArm = .rise ∨ scl = false ∧ (s.busAt 0).sclArm = .fall) := by
  cases scl
  · exact ⟨⟨{ onBus (ctx .write .rise .both) with inputs := [.event 0 .clock false true] }, rfl, by decide⟩,
      { onBus (ctx .read .fall .off) with inputs := [.event 0 .clock false true] }, rfl, by decide⟩
  · exact ⟨⟨{ onBus (ctx .read .fall .off) with inputs := [.event 0 .clock true true] }, rfl, by decide⟩,
      { onBus (ctx .write .rise .both) with inputs := [.event 0 .clock true true] }, rfl, by decide⟩

/-- Statement DataEventsSelectStopStartOrNothing: undelivered; delivered as stop, as start in either state, and as
neither, in turn. -/
theorem witness_data_events :
    (∃ s : State, s.inputs = .event 0 .data true true :: [] ∧ (s.busAt 0).sdaMon = .off) ∧
    (∃ s : State, s.inputs = .event 0 .data true true :: [] ∧ (s.busAt 0).sdaMon ≠ .off) ∧
    (∃ s : State, s.inputs = .event 0 .data true false :: [] ∧ (s.busAt 0).sdaMon ≠ .off ∧
      (s.busAt 0).state = .idle) ∧
    (∃ s : State, s.inputs = .event 0 .data true false :: [] ∧ (s.busAt 0).sdaMon ≠ .off ∧
      (s.busAt 0).state = .write) ∧
    (∃ s : State, s.inputs = .event 0 .data true false :: [] ∧ (s.busAt 0).sdaMon ≠ .off ∧
      (s.busAt 0).state ≠ .idle ∧ (s.busAt 0).state ≠ .write) ∧
    ∃ s : State, s.inputs = .event 0 .data false true :: [] ∧ (s.busAt 0).sdaMon ≠ .off :=
  ⟨⟨{ onBus (ctx .read .fall .off) with inputs := [.event 0 .data true true] }, rfl, by decide⟩,
    ⟨{ onBus (ctx .write .rise .both) with inputs := [.event 0 .data true true] }, rfl, by decide⟩,
    ⟨{ State.reset with inputs := [.event 0 .data true false] }, rfl, by decide, by decide⟩,
    ⟨{ onBus (ctx .write .rise .both) with inputs := [.event 0 .data true false] }, rfl, by decide, by decide⟩,
    ⟨{ onBus (ctx .waitStop .rise .both) with inputs := [.event 0 .data true false] }, rfl, by decide, by decide,
      by decide⟩,
    ⟨{ onBus (ctx .write .rise .both) with inputs := [.event 0 .data false true] }, rfl, by decide⟩⟩

theorem hardwareNext_of {s : State} {x : Input} {rest : List Input} (h : s.inputs = x :: rest)
    (hx : x.fromHardware = true) : s.hardwareNext := by
  intro y r e
  rw [h] at e
  cases e
  exact hx

/-- Statement HardwareInputsCompleteOneByOne: no input, an event, a port call, reset. -/
theorem witness_hardware_next :
    (∃ s : State, s.hardwareNext ∧ s.inputs = []) ∧
    (∃ s : State, s.hardwareNext ∧ s.inputs = [.event 1 .data true true]) ∧
    (∃ s : State, s.hardwareNext ∧ s.inputs = [.call [6, 2, 13, 0xFF, 0xFF]]) ∧
    ∃ s : State, s.hardwareNext ∧ s.inputs = [.reset] :=
  ⟨⟨State.reset, (fun _ _ h => by cases h), rfl⟩,
    ⟨{ State.reset with inputs := [.event 1 .data true true] }, hardwareNext_of rfl (by decide), rfl⟩,
    ⟨{ State.reset with inputs := [.call [6, 2, 13, 0xFF, 0xFF]] }, hardwareNext_of rfl (by decide), rfl⟩,
    ⟨{ State.reset with inputs := [.reset] }, hardwareNext_of rfl (by decide), rfl⟩⟩

/-- Statement ResetSetsEveryField. -/
theorem witness_reset : ∃ (s : State) (rest : List Input), s.inputs = .reset :: rest :=
  ⟨{ onBus (ctx .read .fall .off) with inputs := [.reset] }, [], rfl⟩

/-- Statement StartBeginsTheAddressPhase. -/
theorem witness_start : ∃ i : Instr, i = .evStartIdle 0 ∨ i = .evStartWrite 0 := ⟨.evStartWrite 0, .inr rfl⟩

/-- Statement AddressBitsShiftInAndTheEighthDecides: before the eighth bit; the eighth of the lowest and of the
highest family byte, of the auxiliary address, and of a mismatch. -/
theorem witness_address_bits :
    (∃ (s : State) (B : BusCtx), B = s.busAt 0 ∧ B.bitcnt + 1 ≠ 8) ∧
    (∃ (s : State) (B : BusCtx) (a : Byte), B = s.busAt 0 ∧ a = B.addr.extractLsb' 0 7 ++ BitVec.ofBool false ∧
      B.bitcnt + 1 = 8 ∧ a = 0xA0) ∧
    (∃ (s : State) (B : BusCtx) (a : Byte), B = s.busAt 0 ∧ a = B.addr.extractLsb' 0 7 ++ BitVec.ofBool true ∧
      B.bitcnt + 1 = 8 ∧ a = 0xA7) ∧
    (∃ (s : State) (B : BusCtx) (a : Byte), B = s.busAt 0 ∧ a = B.addr.extractLsb' 0 7 ++ BitVec.ofBool true ∧
      B.bitcnt + 1 = 8 ∧ a.extractLsb' 1 7 = Config.auxAddr) ∧
    ∃ (s : State) (B : BusCtx) (a : Byte), B = s.busAt 0 ∧ a = B.addr.extractLsb' 0 7 ++ BitVec.ofBool false ∧
      B.bitcnt + 1 = 8 ∧
      ¬(0xA0 ≤ a.toNat ∧ a.toNat ≤ 0xA7 ∨ a.extractLsb' 1 7 = Config.auxAddr) := by
  refine ⟨⟨onBus { ctx .address .rise .both with bitcnt := 6 }, _, rfl, by decide⟩,
    ⟨onBus { ctx .address .rise .both with bitcnt := 7, addr := 0x50 }, _, _, rfl, rfl, by decide, by decide⟩,
    ⟨onBus { ctx .address .rise .both with bitcnt := 7, addr := 0x53 }, _, _, rfl, rfl, by decide, by decide⟩,
    ⟨onBus { ctx .address .rise .both with bitcnt := 7, addr := 0#1 ++ Config.auxAddr }, _, _, rfl, rfl, rfl, ?_⟩,
    ?_⟩
  · rw [onBus, busAt_modBus_self]
    have : ∀ a : DevAddr, ((0#1 ++ a : Byte).extractLsb' 0 7 ++ BitVec.ofBool true).extractLsb' 1 7 = a := by decide
    exact this Config.auxAddr
  · obtain ⟨a, ha, h⟩ := mismatch_exists
    have hh : ∀ x : Byte, (x = 0x9E ∨ x = 0xA8) →
        x = (x.extractLsb' 1 7 ++ 0#1) ∧ ¬(0xA0 ≤ x.toNat ∧ x.toNat ≤ 0xA7) ∧
        x = ((0#1 ++ x.extractLsb' 1 7 : Byte).extractLsb' 0 7 ++ BitVec.ofBool false) := by decide
    refine ⟨onBus { ctx .address .rise .both with bitcnt := 7, addr := 0#1 ++ a.extractLsb' 1 7 }, _, a, rfl, ?_,
      rfl, ?_⟩
    · rw [onBus, busAt_modBus_self]
      exact (hh a h).2.2
    · rintro (hf | hx)
      · exact (hh a h).2.1 hf
      · rw [matchAddr, Bool.or_eq_false_iff, beq_eq_false_iff_ne] at ha
        exact ha.2 hx

/-- Statement ReadPrepareFetchesAByteAndDrivesItsFirstBit: a byte from a device, marked last. -/
theorem witness_read_prepare : ∃ (s : State) (r : Reply) (u : State),
    onByteRequested 0 (s.busAt 0).addr s = (r, u) ∧ r = ⟨0x34, true⟩ := by
  refine ⟨((onDev 0 ⟨.single, 0x4A, 0, 0, 0⟩).writeActual 0 0x1234).modBus 0 fun _ =>
      { ctx .readPrepare .fall .both with addr := famByte 3 true }, _, _, rfl, ?_⟩
  simp only [busAt_modBus_self, route_family]
  decide

/-- Statements ReadBit…, WritePrepare…, WriteBit…, and the selection clause of WriteAcknowledge…. -/
theorem witness_clock_operations :
    (∃ s : State, s.inputs = .event 0 .clock false true :: [] ∧ (s.busAt 0).state = .read ∧
      false = armedLevel (s.busAt 0).sclArm) ∧
    (∃ s : State, s.inputs = .event 0 .clock false true :: [] ∧ (s.busAt 0).state = .writePrepare ∧
      false = armedLevel (s.busAt 0).sclArm) ∧
    (∃ s : State, s.inputs = .event 0 .clock true true :: [] ∧ (s.busAt 0).state = .write ∧
      true = armedLevel (s.busAt 0).sclArm) ∧
    ∃ s : State, s.inputs = .event 0 .clock false true :: [] ∧ (s.busAt 0).state = .writeAck ∧
      false = armedLevel (s.busAt 0).sclArm :=
  ⟨⟨{ onBus (ctx .read .fall .off) with inputs := [.event 0 .clock false true] }, rfl, by decide, by decide⟩,
    ⟨{ onBus (ctx .writePrepare .fall .both) with inputs := [.event 0 .clock false true] }, rfl, by decide, by decide⟩,
    ⟨{ onBus (ctx .write .rise .both) with inputs := [.event 0 .clock true true] }, rfl, by decide, by decide⟩,
    ⟨{ onBus (ctx .writeAck .fall .both) with inputs := [.event 0 .clock false true] }, rfl, by decide, by decide⟩⟩

/-- Statement WriteBitShiftsInAndTheEighthEndsTheByte, before the eighth bit and at it. -/
theorem witness_write_bits :
    (∃ (s : State) (B : BusCtx), B = s.busAt 0 ∧ B.bitcnt + 1 ≠ 8) ∧
    ∃ (s : State) (B : BusCtx), B = s.busAt 0 ∧ B.bitcnt + 1 = 8 :=
  ⟨⟨onBus (ctx .write .rise .both), _, rfl, by decide⟩,
    ⟨onBus { ctx .write .rise .both with bitcnt := 7 }, _, rfl, by decide⟩⟩

/-- Statement ReadAcknowledgeReleasesThePinAndBranchesOnLast, both marks. -/
theorem witness_read_acknowledge :
    (∃ s : State, (s.busAt 0).last = true) ∧ ∃ s : State, (s.busAt 0).last = false :=
  ⟨⟨onBus { ctx .readAck .fall .off with last := true }, by decide⟩, ⟨onBus (ctx .readAck .fall .off), by decide⟩⟩

/-- A state in which bus 1 is about to acknowledge a byte written to the privileged device, in mode `st`, with its
register at `r`. -/
def aboutToTrigger (st : DevState) (r : RegAddr) (cnt : Byte) : State :=
  { (onDev 6 ⟨st, r, cnt, 0x10, 0⟩).modBus 1 fun _ =>
      { ctx .writeAck .fall .both with addr := famByte 1 false, data := 0x27 } with
    inputs := [.event 1 .clock false true] }

theorem step_aboutToTrigger (st : DevState) (r : RegAddr) (cnt : Byte) :
    step (aboutToTrigger st r cnt) = .next ((devWrite 6 0x27 { aboutToTrigger st r cnt with inputs := [] }).modBus 1
      fun B => { B with sdaDir := .out, sdaDrv := false, state := .writePrepare }) := by
  have e : step (aboutToTrigger st r cnt) = .next (wrAckOp 1 { aboutToTrigger st r cnt with inputs := [] }) := rfl
  rw [e, wrAckOp_eq, deliverByte, onByteWritten]
  have ha : (State.busAt { aboutToTrigger st r cnt with inputs := [] } 1).addr = famByte 1 false := rfl
  rw [ha, route_family]
  rfl

/-- Statement WriteAcknowledgeDeliversTheByte, last clause: an event that changes the telemetry. -/
theorem witness_write_acknowledge : ∃ (s t : State), s.inputs = .event 1 .clock false true :: [] ∧ step s = .next t ∧
    t.tel ≠ s.tel :=
  ⟨aboutToTrigger .single 0x3C 0, _, rfl, step_aboutToTrigger .single 0x3C 0, by decide⟩

/-- Statement AddressBytesComeToTheirTabledOutcomes, the four matching rows and the mismatch. -/
theorem witness_address_bytes :
    (∃ i a st, i = Instr.addrFamW 0 3 ∧ a = 0b10100#5 ++ (3 : BitVec 2) ++ 0#1 ∧ st = BusState.writePrepare) ∧
    (∃ i a st, i = Instr.addrFamR 0 0 ∧ a = 0b10100#5 ++ (0 : BitVec 2) ++ 1#1 ∧ st = BusState.readPrepare) ∧
    (∃ i a st, i = Instr.addrAuxW 0 ∧ a = Config.auxAddr ++ 0#1 ∧ st = BusState.writePrepare) ∧
    (∃ i a st, i = Instr.addrAuxR 0 ∧ a = Config.auxAddr ++ 1#1 ∧ st = BusState.readPrepare) ∧
    ∃ a, (Instr.addrNoMatch 0 a).wf = true := by
  obtain ⟨a, ha, _⟩ := mismatch_exists
  exact ⟨⟨_, _, _, rfl, rfl, rfl⟩, ⟨_, _, _, rfl, rfl, rfl⟩, ⟨_, _, _, rfl, rfl, rfl⟩, ⟨_, _, _, rfl, rfl, rfl⟩,
    a, by simp [Instr.wf, ha]⟩

/-- Statement BitwiseAddressPhaseIsItsTableRow. -/
theorem witness_bitwise_address : ∃ s : State, (s.busAt 0).state = .address ∧ (s.busAt 0).bitcnt = 0 ∧
    (s.busAt 0).sclArm = .rise ∧
    s.inputs = (bitsOf 0xA6).map (fun v => .event 0 .clock true v) ++ .event 0 .clock false true :: [] :=
  ⟨{ onBus (ctx .address .rise .both) with
      inputs := (bitsOf 0xA6).map (fun v => .event 0 .clock true v) ++ .event 0 .clock false true :: [] },
    by decide, by decide, by decide, rfl⟩

/-- Statement EightDataBitsDeliverTheByte. -/
theorem witness_eight_bits : ∃ s u : State, (s.busAt 0).state = .write ∧ (s.busAt 0).bitcnt = 0 ∧
    (s.busAt 0).sclArm = .rise ∧
    s.inputs = (bitsOf 0x05).map (fun w => .event 0 .clock true w) ++ .event 0 .clock false true :: [] ∧
    onByteWritten 0 (s.busAt 0).addr 0x05 s = u :=
  ⟨{ onBus (ctx .write .rise .both) with
      inputs := (bitsOf 0x05).map (fun w => .event 0 .clock true w) ++ .event 0 .clock false true :: [] }, _,
    by decide, by decide, by decide, rfl, rfl⟩

/-- Statement ReadByteIsSentMostSignificantBitFirst, the first and the last bit. -/
theorem witness_read_byte : ∀ k : Nat, (k = 0 ∨ k = 7) → ∃ (s : State) (xs : List Bool),
    (s.busAt 0).state = .readPrepare ∧ (s.busAt 0).sclArm = .fall ∧ k < 8 ∧ xs.length = k + 1 ∧
    s.inputs = xs.map (fun v => .event 0 .clock false v) ++ [] := by
  rintro k (rfl | rfl)
  · exact ⟨{ onBus (ctx .readPrepare .fall .both) with inputs := [.event 0 .clock false true] }, [true],
      by decide, by decide, by decide, rfl, rfl⟩
  · exact ⟨{ onBus (ctx .readPrepare .fall .both) with inputs := List.replicate 8 (.event 0 .clock false true) },
      List.replicate 8 true, by decide, by decide, by decide, rfl, rfl⟩

/-- Statement RouteIsTheIndexFormula: the auxiliary address; the family's first and last index; an index out of range,
0x4B or 0x54 on bus 0, whichever is not the auxiliary address. -/
theorem witness_route :
    (∃ a : Byte, a.extractLsb' 1 7 = Config.auxAddr) ∧
    (∃ (a : Byte) (idx : Int), idx = 4 * ((0 : BusId).val : Int) + (3 - ((a.toNat / 2 : Nat) - (Config.devBase.toNat : Int))) ∧
      a.extractLsb' 1 7 ≠ Config.auxAddr ∧ idx = 0) ∧
    (∃ (a : Byte) (idx : Int), idx = 4 * ((1 : BusId).val : Int) + (3 - ((a.toNat / 2 : Nat) - (Config.devBase.toNat : Int))) ∧
      a.extractLsb' 1 7 ≠ Config.auxAddr ∧ idx = 7) ∧
    ∃ (a : Byte) (idx : Int), idx = 4 * ((0 : BusId).val : Int) + (3 - ((a.toNat / 2 : Nat) - (Config.devBase.toNat : Int))) ∧
      a.extractLsb' 1 7 ≠ Config.auxAddr ∧ ¬(0 ≤ idx ∧ idx ≤ 7) := by
  have hfam : ∀ a7 : DevAddr, 0x50#7 ≤ a7 → a7 ≤ 0x53#7 → a7 ≠ Config.auxAddr := by
    intro a7 h1 h2 e
    have := auxAddr_outside_family
    rw [← e] at this
    simp only [Config.devBase, BitVec.lt_def, BitVec.le_def] at this h1 h2
    have h53 : (0x50#7 + 3#7).toNat = 0x53 := rfl
    have h53' : (0x53#7).toNat = 0x53 := rfl
    omega
  refine ⟨⟨Config.auxAddr ++ 0#1, ?_⟩, ⟨0xA6, 0, by decide, hfam _ (by decide) (by decide), rfl⟩,
    ⟨0xA0, 7, by decide, hfam _ (by decide) (by decide), rfl⟩, ?_⟩
  · have : ∀ a : DevAddr, (a ++ 0#1 : Byte).extractLsb' 1 7 = a := by decide
    exact this Config.auxAddr
  · by_cases h : Config.auxAddr = 0x4B#7
    · exact ⟨0xA8, -1, by decide, fun e => absurd (e.trans h) (by decide), by decide⟩
    · exact ⟨0x96, 8, by decide, fun e => h (e.symm.trans (by decide)), by decide⟩

/-- Statement RoutedOperationsReachTheirDevice, the three outcomes. -/
theorem witness_routed : (∃ a, route 1 a = .dev 6) ∧ (∃ a, route 1 a = .aux) ∧ ∃ a, route 0 a = .none := by
  refine ⟨⟨famByte 1 false, by rw [route_family]; decide⟩, ⟨addrByte Config.auxAddr false, ?_⟩, ?_⟩
  · have : ∀ (a : DevAddr) (x : Bool), addr7 (addrByte a x) = a := by decide
    exact if_pos (this _ _)
  · by_cases h : Config.auxAddr = 0x4B#7
    · exact ⟨0xA8, by rw [route, h]; decide⟩
    · exact ⟨0x96, by rw [route, if_neg (fun e => h (e.symm.trans (by decide)))]; decide⟩

/-- The device-state hypotheses of the device statements: each state, and for BlocksWalkConsecutiveRegisters a
running block at the least and the greatest count. -/
theorem witness_device_states :
    (∃ s : State, (s.devAt 0).dstate = .idle) ∧ (∃ s : State, (s.devAt 0).dstate = .single) ∧
    (∃ s : State, (s.devAt 0).dstate = .blockCount) ∧ (∃ s : State, (s.devAt 0).dstate = .invalid) ∧
    ∀ c : Byte, (c = 0x01 ∨ c = 0xFF) → ∃ s : State, (s.devAt 7).dstate = .blockRw ∧ (s.devAt 7).countOk = true ∧
      (0x7F : RegAddr) = (s.devAt 7).reg ∧ c = (s.devAt 7).cnt ∧ [(0x12 : Byte)].length ≤ c.toNat ∧ 0 < c.toNat := by
  refine ⟨⟨State.reset, by decide⟩, ⟨onDev 0 ⟨.single, 0x2A, 0, 0, 0⟩, by decide⟩,
    ⟨onDev 0 ⟨.blockCount, 0x2A, 0, 0, 0⟩, by decide⟩, ⟨onDev 0 ⟨.invalid, 0x2A, 0, 0, 0⟩, by decide⟩, ?_⟩
  rintro c (rfl | rfl)
  · exact ⟨onDev 7 ⟨.blockRw, 0x7F, 0x01, 0, 0⟩, by decide⟩
  · exact ⟨onDev 7 ⟨.blockRw, 0x7F, 0xFF, 0, 0⟩, by decide⟩

/-- Statements SingleWrite…, BlockWriteByte…, SingleRead…, BlockReadByte…: the register access they name. -/
theorem witness_register_access :
    (∃ s u : State, rfWrite 0 (s.devAt 0).reg 0x05 s = u ∧ (s.devAt 0).dstate = .single) ∧
    ∃ (s u : State) (x : Byte), rfRead 0 (s.devAt 0).reg s = (x, u) ∧ x = 0x34 ∧ (s.devAt 0).dstate = .blockRw :=
  ⟨⟨onDev 0 ⟨.single, 0x2A, 0, 0, 0⟩, _, rfl, by decide⟩,
    ⟨(onDev 0 ⟨.blockRw, 0x4A, 4, 0, 0⟩).writeActual 0 0x1234, _, _, rfl, by decide, by decide⟩⟩

/-- Statement LowByteWritesStageTheByte. -/
theorem witness_low_byte : ∃ i, i = Instr.rfWReq0Lo 0 5 ∨ i = Instr.rfWReq1Lo 0 5 := ⟨_, .inl rfl⟩

/-- Statement StartTriggerActsOnDevice6AndHolesIgnore, both sides of the privilege. -/
theorem witness_privilege : (∃ d : DevId, d ≠ 6) ∧ ∃ d : DevId, d = 6 := ⟨⟨7, by decide⟩, ⟨6, rfl⟩⟩

/-- Statement ActualTachReadsBackByteByByte: device 6's second slot is the last one, device 7 has none. -/
theorem witness_read_back :
    (∃ (s : State) (i : Instr) (x : Byte), i = .rfRAct1Hi 6 ∧
      (∀ j : SlotId, j.val = 2 * (6 : DevId).val + 3 / 2 →
        x = BitVec.ofNat 8 (if 3 % 2 = 0 then (s.actualAt j).toNat % 256 else (s.actualAt j).toNat / 256)) ∧
      (¬(2 * (6 : DevId).val + 3 / 2 < 14) → x = 0x00) ∧ x = 0xBE) ∧
    ∃ (s : State) (i : Instr) (x : Byte), i = .rfRAct0Lo 7 ∧
      (∀ j : SlotId, j.val = 2 * (7 : DevId).val + 0 / 2 →
        x = BitVec.ofNat 8 (if 0 % 2 = 0 then (s.actualAt j).toNat % 256 else (s.actualAt j).toNat / 256)) ∧
      (¬(2 * (7 : DevId).val + 0 / 2 < 14) → x = 0x00) :=
  ⟨⟨State.reset.writeActual 13 0xBEEF, _, 0xBE, rfl, by decide, by decide, rfl⟩,
    ⟨State.reset, _, 0x00, rfl, by decide, by decide⟩⟩

/-- Statement WritesDoNotShowInTheReadBackRegisters. -/
theorem witness_read_meaning : ∃ r, readMeaning r = true := ⟨0x4D, by decide⟩

theorem reset_pinsOk : State.reset.PinsOk := by unfold State.PinsOk; decide

theorem reset_addrOk : State.reset.AddrOk := by unfold State.AddrOk; decide

theorem reset_countsOk : State.reset.CountsOk := by unfold State.CountsOk; decide

/-- Statement StepKeepsThePinTable: a start, and a stop while the pin is an input. -/
theorem witness_pin_table :
    (∃ s t : State, s.PinsOk ∧ s.hardwareNext ∧ s.noStopWhileDriving ∧ step s = .next t ∧
      (t.busAt 0).state = .address) ∧
    ∃ s t : State, s.PinsOk ∧ s.hardwareNext ∧ s.noStopWhileDriving ∧ step s = .next t ∧
      s.inputs = [.event 0 .data true true] := by
  refine ⟨⟨{ State.reset with inputs := [.event 0 .data true false] }, _, reset_pinsOk, hardwareNext_of rfl rfl, ?_,
      rfl, by decide⟩,
    ⟨{ State.reset with inputs := [.event 0 .data true true] }, _, reset_pinsOk, hardwareNext_of rfl rfl, ?_, rfl, rfl⟩⟩
  · intro b rest h
    cases h
  · intro b rest h _
    cases h
    decide

/-- Statement StepKeepsAddressesAndCounters: the eighth bit of a matching address. -/
theorem witness_counters : ∃ s t : State, s.hardwareNext ∧ step s = .next t ∧ s.AddrOk ∧ s.CountsOk ∧
    (t.busAt 0).state = .addressAck :=
  ⟨{ onBus { ctx .address .rise .both with bitcnt := 7, addr := 0x53 } with inputs := [.event 0 .clock true false] }, _,
    hardwareNext_of rfl rfl, rfl, by unfold State.AddrOk; decide, by unfold State.CountsOk; decide, by decide⟩

/-- Statement WaitStopIsLeftOnlyByAStop: left by a stop; entered after the last byte; entered on a mismatch. -/
theorem witness_wait_stop :
    (∃ s t : State, s.hardwareNext ∧ step s = .next t ∧ (s.busAt 0).state = .waitStop ∧
      (t.busAt 0).state ≠ .waitStop) ∧
    (∃ s t : State, s.hardwareNext ∧ step s = .next t ∧ (s.busAt 0).state = .readAck ∧
      (t.busAt 0).state = .waitStop) ∧
    ∃ s t : State, s.hardwareNext ∧ step s = .next t ∧ (s.busAt 0).state = .address ∧
      (t.busAt 0).state = .waitStop := by
  refine ⟨⟨{ onBus (ctx .waitStop .rise .both) with inputs := [.event 0 .data true true] }, _,
      hardwareNext_of rfl rfl, rfl, by decide, by decide⟩,
    ⟨{ onBus { ctx .readAck .fall .off with last := true } with inputs := [.event 0 .clock false true] }, _,
      hardwareNext_of rfl rfl, rfl, by decide, by decide⟩, ?_⟩
  obtain ⟨a, ha, h⟩ := mismatch_exists
  have hh : ∀ x : Byte, (x = 0x9E ∨ x = 0xA8) → shiftIn (0#1 ++ x.extractLsb' 1 7 : Byte) false = x := by decide
  refine ⟨{ onBus { ctx .address .rise .both with bitcnt := 7, addr := 0#1 ++ a.extractLsb' 1 7 } with
    inputs := [.event 0 .clock true false] }, _, hardwareNext_of rfl rfl, rfl, rfl, ?_⟩
  show (((onBus { ctx .address .rise .both with bitcnt := 7, addr := 0#1 ++ a.extractLsb' 1 7 }).modBus 0
    (addrShiftCtx false)).busAt 0).state = BusState.waitStop
  rw [busAt_modBus_self, onBus, busAt_modBus_self, addrShiftCtx, if_pos (show byteDone (nextBit 7) = true by decide),
    addressDone, shiftAddrBit]
  simp only [hh a h, ha]
  rfl

/-- Statement InvalidDeviceWaitsForItsStop. -/
theorem witness_invalid_device : ∃ s t : State, s.hardwareNext ∧ step s = .next t ∧ (s.devAt 0).dstate = .invalid ∧
    (t.devAt 0).dstate ≠ .invalid := by
  refine ⟨{ (onDev 0 ⟨.invalid, 0x2A, 0, 0, 0⟩).modBus 0 fun _ =>
      { ctx .write .rise .both with maddr := famByte 3 false, maddrValid := true } with
    inputs := [.event 0 .data true true] }, _, hardwareNext_of rfl rfl, rfl, by decide, ?_⟩
  rw [show ∀ s : State, stopOp 0 s = _ from fun s => stopOp_eq 0 s]
  simp only [tellStop, onStop]
  rw [show (State.busAt { (onDev 0 ⟨.invalid, 0x2A, 0, 0, 0⟩).modBus 0 fun _ =>
      { ctx .write .rise .both with maddr := famByte 3 false, maddrValid := true } with inputs := [] } 0).maddr =
    famByte 3 false from rfl, route_family]
  decide

/-- Statement FlagsRiseOnlyThroughThePrivilegedDevice, both flags, in a single write and in a block. -/
theorem witness_flags :
    (∃ s t : State, s.AddrOk ∧ s.hardwareNext ∧ step s = .next t ∧ s.tel.rpmUpdateRequested = false ∧
      t.tel.rpmUpdateRequested = true) ∧
    ∃ s t : State, s.AddrOk ∧ s.hardwareNext ∧ step s = .next t ∧ s.tel.startRequested = false ∧
      t.tel.startRequested = true :=
  ⟨⟨aboutToTrigger .blockRw 0x2D 2, _, by unfold State.AddrOk; decide, hardwareNext_of rfl rfl,
      step_aboutToTrigger .blockRw 0x2D 2, by decide, by decide⟩,
    ⟨aboutToTrigger .single 0x3C 0, _, by unfold State.AddrOk; decide, hardwareNext_of rfl rfl,
      step_aboutToTrigger .single 0x3C 0, by decide, by decide⟩⟩

/-- Statement ActualTachIsWrittenOnlyByTheMainLoop: a write to the last slot, and reset. -/
theorem witness_actual_tach :
    (∃ s t : State, s.hardwareNext ∧ step s = .next t ∧ t.tel.actualTach ≠ s.tel.actualTach ∧
      s.inputs = [.call [6, 2, 13, 0x34, 0x12]]) ∧
    ∃ s t : State, s.hardwareNext ∧ step s = .next t ∧ t.tel.actualTach ≠ s.tel.actualTach ∧ s.inputs = [.reset] :=
  ⟨⟨{ State.reset with inputs := [.call [6, 2, 13, 0x34, 0x12]] }, _, hardwareNext_of rfl (by decide), rfl, by decide,
      rfl⟩,
    ⟨{ State.reset.writeActual 13 0x1234 with inputs := [.reset] }, _, hardwareNext_of rfl rfl, rfl, by decide, rfl⟩⟩

/-- Statement DecoderWritesOnlyItsOwnSide: a step of bus 1 that writes a device, a slot and a flag. -/
theorem witness_own_side : ∃ s t : State, s.AddrOk ∧ s.inputs = .event 1 .clock false true :: [] ∧ step s = .next t ∧
    t.requestedAt 13 ≠ s.requestedAt 13 :=
  ⟨aboutToTrigger .blockRw 0x2D 2, _, by unfold State.AddrOk; decide, rfl, step_aboutToTrigger .blockRw 0x2D 2,
    by decide⟩

/-- Statement DecoderReadsOnlyItsOwnSide: two states that differ on the other side. -/
theorem witness_agreeing_sides : ∃ s s' t t' : State, s.AddrOk ∧ s.inputs = .event 0 .data true false :: [] ∧
    s'.inputs = .event 0 .data true false :: [] ∧ SameSide 0 s s' ∧ step s = .next t ∧ step s' = .next t' ∧
    s'.requestedAt 13 ≠ s.requestedAt 13 :=
  ⟨{ State.reset with inputs := [.event 0 .data true false] },
    { State.reset.writeRequested 13 0x1388 with inputs := [.event 0 .data true false] }, _, _,
    by unfold State.AddrOk; decide, rfl, rfl,
    ⟨by decide, by decide, by decide, by decide, by decide, by decide, by decide, by decide⟩, rfl, rfl, by decide⟩

/-- Statement DecodersCommute. -/
theorem witness_two_decoders : ∃ s : State, s.AddrOk := ⟨State.reset, reset_addrOk⟩

/-- Statement PinContractKeepsThePinTable: the falling clock edge that makes the block acknowledge. -/
theorem witness_pin_contract : ∃ (p q : PinState) (c : Change), p.block.PinsOk ∧ p.drive 0 c = .next q ∧
    pullsLow (q.block.busAt 0) = true :=
  ⟨PinState.mk (Vector.replicate 2 ⟨true, true⟩) (onBus { ctx .addressAck .fall .both with addr := 0xA6 }) [], _,
    .scl false, by unfold State.PinsOk; decide, rfl, by decide⟩

/-- Statement PinActionsHappenWhileTheClockIsLow. -/
theorem witness_clock_high : ∃ s t : State, s.PinsOk ∧ s.inputs = .event 0 .clock true true :: [] ∧ step s = .next t ∧
    (t.busAt 0).data ≠ (s.busAt 0).data :=
  ⟨{ onBus (ctx .write .rise .both) with inputs := [.event 0 .clock true true] }, _, by unfold State.PinsOk; decide,
    rfl, rfl, by decide⟩

end Sys2Proof.Tests
end

section
/-! PROOFS. The statements about the bit-level bus decoder (spec/40_bus_decoder.md): the level guard and the
selection of a clock event, the read and write operations, and the ways into and out of `WAIT_STOP`. -/

namespace Sys2Proof.Machine

/-! ## The level guard and the selection (R125) -/

/-- A level that passes the guard, written out (R125). -/
theorem eq_armedLevel_iff (scl : Bool) (a : SclArm) :
    scl = armedLevel a ↔ scl = true ∧ a = .rise ∨ scl = false ∧ a = .fall := by
  cases a <;> simp [armedLevel]

/-- A level that does not pass the guard, written out (R125). -/
theorem ne_armedLevel_iff (scl : Bool) (a : SclArm) :
    scl ≠ armedLevel a ↔ scl = true ∧ a = .fall ∨ scl = false ∧ a = .rise := by
  cases a <;> simp [armedLevel]

theorem monitored_iff (m : SdaMon) : monitored m = true ↔ m ≠ .off := by
  cases m <;> simp [monitored]

section
variable {s : State} {b : BusId} {scl sda : Bool} {rest : List Input}

/-- A step whose next input is an event runs the operation the event selects, in the state without it (R70). -/
theorem step_of_select {line : Line} {i : Instr} (hi : s.inputs = .event b line scl sda :: rest)
    (hsel : select b (s.busAt b) line scl sda = some i) : step s = exec i { s with inputs := rest } := by
  have hrun : runEvent b line scl sda { s with inputs := rest } = exec i { s with inputs := rest } := by
    rw [runEvent, show State.busAt { s with inputs := rest } b = s.busAt b from rfl, hsel]
  rw [step, hi]
  exact hrun

/-- R125: a clock event at a level that is not the armed one is taken and changes nothing. -/
theorem step_clock_of_ne_armedLevel (hi : s.inputs = .event b .clock scl sda :: rest)
    (hc : scl ≠ armedLevel (s.busAt b).sclArm) : step s = .next { s with inputs := rest } :=
  step_of_select (i := .clkGuard b (s.busAt b).state scl sda) hi (if_neg hc)

/-- R126 to R135: a clock event at the armed level runs the operation of the decoder's state. -/
theorem step_clock_of_eq_armedLevel (hi : s.inputs = .event b .clock scl sda :: rest)
    (hc : scl = armedLevel (s.busAt b).sclArm) :
    step s = exec (clockOp b (s.busAt b).state scl sda) { s with inputs := rest } :=
  step_of_select hi (if_pos hc)

/-- The same with the operation the state selects given by name. -/
theorem step_clock_selects (hi : s.inputs = .event b .clock scl sda :: rest) {st : BusState}
    (hs : (s.busAt b).state = st) (hc : scl = armedLevel (s.busAt b).sclArm) :
    step s = exec (clockOp b st scl sda) { s with inputs := rest } :=
  hs ▸ step_clock_of_eq_armedLevel hi hc

end

/-! ## The bus context after one operation -/

/-- An update of one bus context leaves the rest of the machine alone. -/
theorem onlyBus_modBus (s : State) (b : BusId) (f : BusCtx → BusCtx) : OnlyBus b s (s.modBus b f) where
  otherBus _ h := busAt_modBus_of_ne s f h
  dev := rfl
  tel := rfl
  inputs := rfl
  answer := rfl
  draws := rfl

/-- A byte is complete when the counter, one bit on, is 8 (R23). -/
theorem byteDone_nextBit_iff (n : BitVec 4) : byteDone (nextBit n) = true ↔ n + 1 = 8 := beq_iff_eq

theorem rdBitCtx_state (B : BusCtx) :
    (rdBitCtx B).state = if B.bitcnt + 1 = 8 then .readAck else B.state := by
  simp only [rdBitCtx, byteDone_nextBit_iff]

/-- R134 before the eighth bit. -/
theorem wrShiftCtx_of_ne (sda : Bool) {B : BusCtx} (h : B.bitcnt + 1 ≠ 8) :
    wrShiftCtx sda B = shiftDataBit sda B :=
  if_neg (mt (byteDone_nextBit_iff _).1 h)

/-- R134 at the eighth bit. -/
theorem wrShiftCtx_of_eq (sda : Bool) {B : BusCtx} (h : B.bitcnt + 1 = 8) :
    wrShiftCtx sda B = { shiftDataBit sda B with state := .writeAck, sclArm := .fall } :=
  if_pos ((byteDone_nextBit_iff _).2 h)

/-! ## What an event does to the registers (R135) -/

/-- A device read keeps the staging byte and the read-count (R66). -/
theorem devRead_registers (d : DevId) (s : State) :
    ((devRead d s).2.devAt d).stage = (s.devAt d).stage ∧ ((devRead d s).2.devAt d).rdcnt = (s.devAt d).rdcnt := by
  have hread : (rfRead d (s.devAt d).reg s).2.devAt d = s.devAt d := by
    unfold State.devAt
    rw [(rfRead_effect d _ s).2.1]
  unfold devRead
  split
  · exact ⟨rfl, rfl⟩
  · simp [drSingleOp, hread]
  · simp [drBlockCountOp]
  · simp [drBlockRwOp, blockAdvance, hread]
  · exact ⟨rfl, rfl⟩

/-- An event keeps the telemetry, the staging bytes and the read-counts, unless it is a clock event at the armed
level of a bus in `WRITE_ACK`. -/
theorem case_registers {b line scl sda} {s t : State} (h : EventCase b line scl sda s t) :
    (t.tel = s.tel ∧ ∀ d, (t.devAt d).stage = (s.devAt d).stage ∧ (t.devAt d).rdcnt = (s.devAt d).rdcnt) ∨
    (line = .clock ∧ scl = armedLevel (s.busAt b).sclArm ∧ (s.busAt b).state = .writeAck) := by
  rcases case_tel h with htel | ⟨hl, hc, hs, _⟩
  case inr => exact .inr ⟨hl, hc, hs⟩
  rcases case_dev h with hdev | ⟨d, hother, hd⟩
  case inl => exact .inl ⟨htel, fun d => by simp [hdev d]⟩
  have lift (k : (t.devAt d).stage = (s.devAt d).stage ∧ (t.devAt d).rdcnt = (s.devAt d).rdcnt) (d' : DevId) :
      (t.devAt d').stage = (s.devAt d').stage ∧ (t.devAt d').rdcnt = (s.devAt d').rdcnt := by
    by_cases e : d' = d
    · exact e ▸ k
    · simp [hother d' e]
  rcases hd with ⟨hstop, _⟩ | ⟨hread, _⟩ | ⟨_, hs, hl, hc, _⟩
  · exact .inl ⟨htel, lift (by simp [hstop, devStop])⟩
  · exact .inl ⟨htel, lift (hread ▸ devRead_registers d s)⟩
  · exact .inr ⟨hl, hc, hs⟩

/-- Reset sets every bus context to its reset values (R280). -/
theorem resetBlock_busAt (s : State) (b : BusId) : s.resetBlock.busAt b = BusCtx.reset := by
  simp [State.resetBlock, State.busAt, State.reset]

/-! ## Into and out of `WAIT_STOP` (R136) -/

/-- The eighth address bit leads to `WAIT_STOP` only if the byte does not match (R127). -/
theorem addrShiftCtx_enters_waitStop {sda : Bool} {B : BusCtx} (hs : B.state ≠ .waitStop)
    (h : (addrShiftCtx sda B).state = .waitStop) : matchAddr (addr7 (addrShiftCtx sda B).addr) = false := by
  unfold addrShiftCtx addressDone at h ⊢
  split_ifs at h ⊢ with _ hm
  · cases h
  · exact Bool.eq_false_iff.2 hm
  · exact absurd h hs

/-- The end of a read byte leads to `WAIT_STOP` only after a byte marked last (R132). -/
theorem rdAckCtx_enters_waitStop {B : BusCtx} (h : (rdAckCtx B).state = .waitStop) : B.last = true := by
  unfold rdAckCtx at h
  split at h
  · assumption
  · cases h

theorem rdBitCtx_state_ne_waitStop {B : BusCtx} (hs : B.state ≠ .waitStop) : (rdBitCtx B).state ≠ .waitStop := by
  rw [rdBitCtx_state]
  split
  · decide
  · exact hs

theorem wrShiftCtx_state_ne_waitStop {sda : Bool} {B : BusCtx} (hs : B.state ≠ .waitStop) :
    (wrShiftCtx sda B).state ≠ .waitStop := by
  by_cases h : B.bitcnt + 1 = 8
  · rw [wrShiftCtx_of_eq sda h]
    exact nofun
  · rw [wrShiftCtx_of_ne sda h]
    exact hs

theorem addrAckCtx_state_ne_waitStop (B : BusCtx) : (addrAckCtx B).state ≠ .waitStop := by
  unfold addrAckCtx
  dsimp only
  split <;> decide

/-- An event changes the state of no bus but its own. -/
theorem case_changes_own_state {b line scl sda} {s t : State} (h : EventCase b line scl sda s t) {c : BusId}
    (hne : (t.busAt c).state ≠ (s.busAt c).state) : c = b := by
  by_contra e
  exact hne (congrArg BusCtx.state ((case_bus h).1 c e))

/-- An event that takes a bus out of `WAIT_STOP` is a delivered stop of that bus, and leads to `IDLE`. -/
theorem case_leaves_waitStop {b line scl sda} {s t : State} (h : EventCase b line scl sda s t) {c : BusId}
    (hs : (s.busAt c).state = .waitStop) (ht : (t.busAt c).state ≠ .waitStop) :
    c = b ∧ line = .data ∧ scl = true ∧ sda = true ∧ monitored (s.busAt c).sdaMon = true ∧
      (t.busAt c).state = .idle := by
  obtain rfl : c = b := case_changes_own_state h fun e => ht (e.trans hs)
  rcases (case_bus h).2 with same | ⟨hl, hc, hd, hm, hstop⟩ | ⟨_, _, _, _, hst, _⟩ | ⟨_, _, hclock⟩
  · rw [same] at ht
    exact absurd hs ht
  · exact ⟨rfl, hl, hc, hd, hm, by rw [hstop]⟩
  · simp [hs] at hst
  · simp [hs] at hclock

/-- An event takes a bus into `WAIT_STOP` only from `ADDRESS`, on a byte that does not match, or from `READ_ACK`,
after a byte marked last. -/
theorem case_enters_waitStop {b line scl sda} {s t : State} (h : EventCase b line scl sda s t) {c : BusId}
    (hs : (s.busAt c).state ≠ .waitStop) (ht : (t.busAt c).state = .waitStop) :
    (s.busAt c).state = .address ∧ matchAddr (addr7 (t.busAt c).addr) = false ∨
    (s.busAt c).state = .readAck ∧ (s.busAt c).last = true := by
  obtain rfl : c = b := case_changes_own_state h fun e => hs (e.symm.trans ht)
  rcases (case_bus h).2 with same | ⟨_, _, _, _, stop⟩ | ⟨_, _, _, _, _, start⟩ | ⟨_, _, clock⟩
  · exact absurd (same ▸ ht) hs
  · rw [stop] at ht
    cases ht
  · rw [start] at ht
    cases ht
  rcases clock with ⟨hst, addrShift⟩ | ⟨_, addrAck⟩ | ⟨_, r, rdPrep⟩ | ⟨_, rdBit⟩ | ⟨hst, rdAck⟩ | ⟨_, wrPrep⟩ |
    ⟨_, wrShift⟩ | ⟨_, wrAck⟩
  · rw [addrShift] at ht ⊢
    exact .inl ⟨hst, addrShiftCtx_enters_waitStop hs ht⟩
  · exact absurd (addrAck ▸ ht) (addrAckCtx_state_ne_waitStop _)
  · exact absurd (rdPrep ▸ ht) (rdBitCtx_state_ne_waitStop (by simp [rdLoadCtx]))
  · exact absurd (rdBit ▸ ht) (rdBitCtx_state_ne_waitStop hs)
  · exact .inr ⟨hst, rdAckCtx_enters_waitStop (rdAck ▸ ht)⟩
  · rw [wrPrep] at ht
    cases ht
  · exact absurd (wrShift ▸ ht) (wrShiftCtx_state_ne_waitStop hs)
  · rw [wrAck] at ht
    cases ht

/-! ## The statements -/

/-- Settles O5, by the guard's two sides. -/
theorem clockEventsPassTheGuardOrChangeNothing : Obligations.ClockEventsPassTheGuardOrChangeNothing := by
  intro s b scl sda rest hi
  constructor
  · intro hc
    exact step_clock_of_ne_armedLevel hi ((ne_armedLevel_iff _ _).2 hc)
  · intro hc
    rw [step_clock_of_eq_armedLevel hi ((eq_armedLevel_iff _ _).2 hc)]
    rfl

/-- Settles O17: RD.BIT is one update of the bus context, and RD.PREP loads the byte before it. -/
theorem readBitDrivesTheTopBitAndShifts : Obligations.ReadBitDrivesTheTopBitAndShifts := by
  intro b sda s
  refine ⟨s.modBus b rdBitCtx, rfl, onlyBus_modBus s b _, ?_, ?_, rfl⟩
  · rw [busAt_modBus_self, ← rdBitCtx_state]
    rfl
  · exact fun scl rest hi hs hc => step_clock_selects hi hs hc

/-- Settles O19: WR.PREP is one update of the bus context. -/
theorem writePrepareReleasesThePinAndClears : Obligations.WritePrepareReleasesThePinAndClears := by
  intro b sda s
  refine ⟨s.modBus b wrPrepCtx, rfl, onlyBus_modBus s b _, busAt_modBus_self s b _, ?_⟩
  exact fun scl rest hi hs hc => step_clock_selects hi hs hc

/-- Settles O20: WR.SHIFT is one update of the bus context, by whether the bit is the eighth. -/
theorem writeBitShiftsInAndTheEighthEndsTheByte : Obligations.WriteBitShiftsInAndTheEighthEndsTheByte := by
  intro b sda s
  refine ⟨s.modBus b (wrShiftCtx sda), rfl, onlyBus_modBus s b _, ?_, ?_⟩
  · rintro B x rfl rfl
    rw [busAt_modBus_self]
    constructor
    · intro h
      rw [wrShiftCtx_of_ne sda h]
      rfl
    · intro h
      rw [wrShiftCtx_of_eq sda h, ← h]
      rfl
  · exact fun scl rest hi hs hc => step_clock_selects hi hs hc

/-- Settles O21: the byte goes through `onByteWritten`, whose frame gives the rest; and no other case of an event
reaches a register. -/
theorem writeAcknowledgeDeliversTheByte : Obligations.WriteAcknowledgeDeliversTheByte := by
  intro b sda s
  refine ⟨?_, fun scl rest hi hs hc => step_clock_selects hi hs hc, ?_⟩
  · rintro u rfl
    obtain ⟨hself, hother⟩ := busAt_wrAck b s
    obtain ⟨hframe, hdraws⟩ := onByteWritten_frame b (s.busAt b).addr (s.busAt b).data s
    refine ⟨wrAckOp b s, rfl, hself, hother, ?_⟩
    rw [wrAckOp_eq]
    exact ⟨rfl, rfl, hframe.inputs, hframe.answer, hdraws⟩
  · intro line scl rest t hi hstep hchange
    rcases case_registers (event_case hi hstep) with ⟨htel, hdev⟩ | hack
    · rcases hchange with hne | ⟨d, hne | hne⟩
      · exact absurd htel hne
      · exact absurd (hdev d).1 hne
      · exact absurd (hdev d).2 hne
    · exact hack

/-- Settles O52, by what one hardware step can do: only an event or reset reaches a bus context. -/
theorem waitStopIsLeftOnlyByAStop : Obligations.WaitStopIsLeftOnlyByAStop := by
  intro s t b hn hstep
  rcases hw_cases hn hstep with ⟨_, rfl⟩ | ⟨c, line, scl, sda, rest, hi, hcase⟩ |
    ⟨_, _, _, _, _, _, _, hbus, _⟩ | ⟨rest, hi, rfl⟩
  · exact ⟨fun hs ht => absurd hs ht, fun hs ht => absurd ht hs⟩
  · refine ⟨fun hs ht => ?_, fun hs ht => case_enters_waitStop hcase hs ht⟩
    obtain ⟨rfl, rfl, rfl, rfl, hm, hidle⟩ := case_leaves_waitStop hcase hs ht
    exact ⟨hidle, .inl ⟨rest, hi, (monitored_iff _).1 hm⟩⟩
  · have hb : t.busAt b = s.busAt b := by rw [State.busAt, hbus, State.busAt]
    rw [hb]
    exact ⟨fun hs ht => absurd hs ht, fun hs ht => absurd ht hs⟩
  · rw [resetBlock_busAt]
    exact ⟨fun _ _ => ⟨rfl, .inr ⟨rest, hi⟩⟩, fun _ ht => nomatch ht⟩

end Sys2Proof.Machine
end

section
/-! PROOFS. The statements about the device register state machine (spec/42_device_fsm.md): the command byte, the
value byte of a single write, and the stop. -/

namespace Sys2Proof.Machine

/-- An update of one device context leaves the rest of the machine alone. -/
theorem onlyDev_modDev (s : State) (d : DevId) (f : DevCtx → DevCtx) : OnlyDev d s (s.modDev d f) where
  bus := rfl
  otherDev _ h := devAt_modDev_of_ne s f h
  tel := rfl
  inputs := rfl
  answer := rfl
  draws := rfl

/-! ## The operation a written byte selects (R185) -/

section
variable {d : DevId} {s : State}

theorem devWrite_of_idle (v : Byte) (h : (s.devAt d).dstate = .idle) : devWrite d v s = dwIdleOp d v s := by
  rw [devWrite, h]

theorem devWrite_of_single (v : Byte) (h : (s.devAt d).dstate = .single) :
    devWrite d v s = dwSingleOp d v s := by
  rw [devWrite, h]

end

/-! ## The value byte of a single write (R187) -/

/-- DW.SINGLE stays within its device: a register write, then an update of the device context. -/
theorem dwSingleOp_effect (d : DevId) (v : Byte) (s : State) : DevEffect d s (dwSingleOp d v s) :=
  (rfWrite_effect d _ v s).trans (modDev_effect d _ _)

/-- The device after DW.SINGLE is the one the register write left, but `INVALID`. -/
theorem devAt_dwSingleOp (d : DevId) (v : Byte) (s : State) :
    (dwSingleOp d v s).devAt d =
      { (rfWrite d (s.devAt d).reg v s).devAt d with dstate := .invalid } :=
  devAt_modDev_self _ d _

/-- DW.SINGLE keeps the register address: neither the write nor the change of state moves it. -/
theorem reg_dwSingleOp (d : DevId) (v : Byte) (s : State) :
    ((dwSingleOp d v s).devAt d).reg = (s.devAt d).reg := by
  obtain ⟨_, hreg, _⟩ := rfWrite_machine d (s.devAt d).reg v s
  rw [devAt_dwSingleOp]
  exact hreg

/-! ## The statements -/

/-- Settles O38: DSTOP is one update of the device context. -/
theorem deviceStopReturnsToIdle : Obligations.DeviceStopReturnsToIdle := by
  intro d s
  exact ⟨devStop d s, rfl, onlyDev_modDev s d _, devAt_modDev_self s d _, rfl⟩

/-- Settles O28: DW.IDLE is one update of the device context, and `devWrite` runs it on an `IDLE` device. -/
theorem commandByteSelectsRegisterAndMode : Obligations.CommandByteSelectsRegisterAndMode := by
  intro d v s
  exact ⟨dwIdleOp d v s, rfl, onlyDev_modDev s d _, devAt_modDev_self s d _, devWrite_of_idle v⟩

/-- Settles O30: the telemetry comes from the register write, the rest of the frame from what an operation of one
device may change. -/
theorem singleWriteCommitsOnce : Obligations.SingleWriteCommitsOnce := by
  rintro d v s u rfl
  have heff := dwSingleOp_effect d v s
  have hdraws : (dwSingleOp d v s).draws = s.draws := rfWrite_draws d _ v s
  exact ⟨dwSingleOp d v s, rfl, devAt_dwSingleOp d v s, reg_dwSingleOp d v s, heff.otherDev, rfl,
    heff.bus, heff.inputs, heff.answer, hdraws, devWrite_of_single v⟩

end Sys2Proof.Machine
end

section
/-! PROOFS. The statements about the register file (spec/43_register_file.md): the low bytes of the two requested
values. -/

namespace Sys2Proof.Machine

/-- Settles O39: each of the two low registers is one update of the device context, to its staging byte. -/
theorem lowByteWritesStageTheByte : Obligations.LowByteWritesStageTheByte := by
  rintro d v s _ (rfl | rfl)
  · exact ⟨rfWriteReq0Lo d v s, rfl, onlyDev_modDev s d _, devAt_modDev_self s d _⟩
  · exact ⟨rfWriteReq1Lo d v s, rfl, onlyDev_modDev s d _, devAt_modDev_self s d _⟩

end Sys2Proof.Machine
end

section
/-! PROOFS. The statements about the encoding (spec/30_encoding.md): what is encoded decodes to itself, what decodes
encodes back to the same bytes, and the table's own words. One lemma per format: the frame decodes to the row of its
word, and the row is well-formed and is written as that frame. -/

namespace Sys2Proof

open Sys2Proof.Machine

/-! ## The DISP7 rows, by the line of the event -/

/-- The clock row of a dispatch word: the guard at the level the state is not armed for, else the state's operation. -/
def clockRow (b : BusId) (st : BusState) (scl sda : Bool) : Instr :=
  if clockColumn st = some (!scl) then .clkGuard b st scl sda else clockOp b st scl sda

/-- The dispatch word of a data-line event is of the row its rules select (R122 to R124). -/
theorem disp7Row_data (b : BusId) (st : BusState) (scl sda : Bool) :
    disp7Row b st (dispatchWord st .data scl sda) = dataOp b st scl sda := by
  cases st <;> cases scl <;> cases sda <;> rfl

/-- The dispatch word of a clock-line event is of the guard's or of the state's row (R125 to R135). -/
theorem disp7Row_clock (b : BusId) (st : BusState) (scl sda : Bool) :
    disp7Row b st (dispatchWord st .clock scl sda) = clockRow b st scl sda := by
  cases st <;> cases scl <;> cases sda <;> rfl

theorem decode_dataFrame (b : BusId) (st : BusState) (scl sda : Bool) :
    decode (disp7Frame b st .data scl sda) = .ok (dataOp b st scl sda) := by
  rw [decode_disp7Frame, disp7Row_data]

theorem decode_clockFrame (b : BusId) (st : BusState) (scl sda : Bool) :
    decode (disp7Frame b st .clock scl sda) = .ok (clockRow b st scl sda) := by
  rw [decode_disp7Frame, disp7Row_clock]

/-- The guard's row is read at a level that is not the state's clock level. -/
theorem clockRow_of_guard (b : BusId) {st : BusState} {scl : Bool} (sda : Bool) (h : clockColumn st = some (!scl)) :
    clockRow b st scl sda = .clkGuard b st scl sda :=
  if_pos h

/-- A start that is not accepted is of its own row, which the two accepted starts precede. -/
theorem dataOp_of_ignored_start (b : BusId) {st : BusState} (hi : st ≠ .idle) (hw : st ≠ .write) :
    dataOp b st true false = .evDatNopScl1 b st := by
  cases st <;> simp_all [dataOp]

/-- What a data-line event selects is well-formed and stands for the event's dispatch word. -/
theorem encode_dataOp (b : BusId) (st : BusState) (scl sda : Bool) :
    (dataOp b st scl sda).wf = true ∧ encode (dataOp b st scl sda) = disp7Frame b st .data scl sda := by
  cases st <;> cases scl <;> cases sda <;> exact ⟨rfl, rfl⟩

/-- What a clock-line event selects is well-formed and stands for the event's dispatch word. -/
theorem encode_clockRow (b : BusId) (st : BusState) (scl sda : Bool) :
    (clockRow b st scl sda).wf = true ∧ encode (clockRow b st scl sda) = disp7Frame b st .clock scl sda := by
  cases st <;> cases scl <;> cases sda <;> exact ⟨rfl, rfl⟩

/-- A code that names a state is that state's code (R100). -/
theorem eq_stateCode_of_stateOfCode {c : BitVec 4} {st : BusState} (h : stateOfCode c = some st) :
    c = stateCode st := by
  unfold stateOfCode at h
  split_ifs at h <;> cases h <;> assumption

/-- The fields of a dispatch word (R100). -/
theorem dispatch_fields : ∀ w : BitVec 7, w = w.extractLsb' 3 4 ++ BitVec.ofBool (w.getLsbD 2) ++
    BitVec.ofBool (w.getLsbD 1) ++ BitVec.ofBool (w.getLsbD 0) := by decide

/-- A word whose code names a state is the dispatch word of an event in that state. -/
theorem exists_dispatchWord {w : BitVec 7} {st : BusState} (h : stateOfCode (w.extractLsb' 3 4) = some st) :
    ∃ line scl sda, w = dispatchWord st line scl sda := by
  have hw := dispatch_fields w
  rw [eq_stateCode_of_stateOfCode h] at hw
  cases hl : w.getLsbD 2 <;> rw [hl] at hw
  · exact ⟨.clock, _, _, hw⟩
  · exact ⟨.data, _, _, hw⟩

/-- Every dispatch word is of a row that is well-formed and encodes back to it. -/
theorem encode_disp7Row {b : BusId} {st : BusState} {w : BitVec 7} (h : stateOfCode (w.extractLsb' 3 4) = some st) :
    (disp7Row b st w).wf = true ∧ encode (disp7Row b st w) = [0, busByte b, word7 w] := by
  obtain ⟨line, scl, sda, rfl⟩ := exists_dispatchWord h
  cases line with
  | clock => rw [disp7Row_clock]; exact encode_clockRow b st scl sda
  | data => rw [disp7Row_data]; exact encode_dataOp b st scl sda

/-! ## The ADDR8 rows -/

theorem decode_addr8Frame (b : BusId) (a : Byte) : decode [1, busByte b, a] = .ok (addr8Row b a) := by
  simp [decode, decodeAddr8, withBus_busByte]

/-- The family rows' byte with a write and with a read bit, told apart by mask and match (R91). -/
theorem fam_byte_facts : ∀ oo : BitVec 2,
    (0b10100#5 ++ oo ++ 0#1) &&& 0xF9#8 = 0xA0#8 ∧ (0b10100#5 ++ oo ++ 0#1).extractLsb' 1 2 = oo ∧
    (0b10100#5 ++ oo ++ 1#1) &&& 0xF9#8 = 0xA1#8 ∧ (0b10100#5 ++ oo ++ 1#1).extractLsb' 1 2 = oo := by decide

theorem addr8Row_famW (b : BusId) (oo : BitVec 2) : addr8Row b (0b10100#5 ++ oo ++ 0#1) = .addrFamW b oo := by
  obtain ⟨hm, ho, _, _⟩ := fam_byte_facts oo
  rw [addr8Row, if_pos hm, ho]

theorem addr8Row_famR (b : BusId) (oo : BitVec 2) : addr8Row b (0b10100#5 ++ oo ++ 1#1) = .addrFamR b oo := by
  obtain ⟨_, _, hm, ho⟩ := fam_byte_facts oo
  rw [addr8Row, if_neg (by rw [hm]; decide), if_pos hm, ho]

theorem addrByte_read_ne_write : ∀ a : DevAddr, addrByte a true ≠ addrByte a false := by decide

theorem addr8Row_auxW (b : BusId) : addr8Row b (addrByte Config.auxAddr false) = .addrAuxW b := by
  obtain ⟨hw, hr⟩ := auxByte_facts false
  rw [addr8Row, if_neg hw, if_neg hr, if_pos rfl]

theorem addr8Row_auxR (b : BusId) : addr8Row b (addrByte Config.auxAddr true) = .addrAuxR b := by
  obtain ⟨hw, hr⟩ := auxByte_facts true
  rw [addr8Row, if_neg hw, if_neg hr, if_neg (addrByte_read_ne_write _), if_pos rfl]

/-- The mask and match of the family rows say that the address is in the family's range (R91, R128). -/
theorem fam_range : ∀ a : Byte, a &&& 0xF9#8 = 0xA0#8 ∨ a &&& 0xF9#8 = 0xA1#8 →
    (decide (Config.devBase ≤ addr7 a) && decide (addr7 a ≤ Config.devBase + 3#7)) = true := by decide

theorem addr7_addrByte : ∀ (a : DevAddr) (rw : Bool), addr7 (addrByte a rw) = a := by decide

/-- The address matches exactly when one of the four rows before the last is the byte's (R128). -/
theorem matchAddr_iff_row (a : Byte) : matchAddr (addr7 a) = true ↔
    a &&& 0xF9#8 = 0xA0#8 ∨ a &&& 0xF9#8 = 0xA1#8 ∨ a = addrByte Config.auxAddr false ∨
      a = addrByte Config.auxAddr true := by
  rw [matchAddr, Bool.or_eq_true, beq_iff_eq]
  constructor
  · rintro (hfam | haux)
    · rcases fam_match a hfam with h | h
      · exact .inl h
      · exact .inr (.inl h)
    · have ha := addrByte_split a
      rw [haux] at ha
      cases hrw : rwBit a <;> rw [hrw] at ha
      · exact .inr (.inr (.inl ha))
      · exact .inr (.inr (.inr ha))
  · rintro (h | h | rfl | rfl)
    · exact .inl (fam_range a (.inl h))
    · exact .inl (fam_range a (.inr h))
    · exact .inr (addr7_addrByte _ _)
    · exact .inr (addr7_addrByte _ _)

theorem addr8Row_noMatch (b : BusId) {a : Byte} (h : matchAddr (addr7 a) = false) :
    addr8Row b a = .addrNoMatch b a := by
  have hrow := mt (matchAddr_iff_row a).2 (Bool.eq_false_iff.1 h)
  simp only [not_or] at hrow
  obtain ⟨hfw, hfr, haw, har⟩ := hrow
  rw [addr8Row, if_neg hfw, if_neg hfr, if_neg haw, if_neg har]

/-- Every address byte is of a row that is well-formed and encodes back to it. -/
theorem encode_addr8Row (b : BusId) (a : Byte) :
    (addr8Row b a).wf = true ∧ encode (addr8Row b a) = [1, busByte b, a] := by
  cases hm : matchAddr (addr7 a)
  · rw [addr8Row_noMatch b hm]
    exact ⟨by rw [Instr.wf, hm]; rfl, rfl⟩
  · rcases (matchAddr_iff_row a).1 hm with h | h | rfl | rfl
    · rw [← fam_w a h, addr8Row_famW]
      exact ⟨rfl, rfl⟩
    · rw [← fam_r a h, addr8Row_famR]
      exact ⟨rfl, rfl⟩
    · rw [addr8Row_auxW]
      exact ⟨rfl, rfl⟩
    · rw [addr8Row_auxR]
      exact ⟨rfl, rfl⟩

/-! ## The CMD8, REG7W and REG7R rows -/

theorem decode_cmd8Frame (d : DevId) (v : Byte) : decode [2, devByte d, v] = .ok (cmd8Row d v) := by
  simp [decode, decodeCmd8, withDev_devByte]

theorem cmd_byte_facts : ∀ r : RegAddr,
    (0#1 ++ r) &&& 0x80#8 = 0x00#8 ∧ (0#1 ++ r : Byte).extractLsb' 0 7 = r ∧
    (1#1 ++ r) &&& 0x80#8 ≠ 0x00#8 ∧ (1#1 ++ r : Byte).extractLsb' 0 7 = r := by decide

theorem cmd8Row_single (d : DevId) (r : RegAddr) : cmd8Row d (0#1 ++ r) = .cmdSingle d r := by
  obtain ⟨hm, hr, _, _⟩ := cmd_byte_facts r
  rw [cmd8Row, if_pos hm, hr]

theorem cmd8Row_block (d : DevId) (r : RegAddr) : cmd8Row d (1#1 ++ r) = .cmdBlock d r := by
  obtain ⟨_, _, hm, hr⟩ := cmd_byte_facts r
  rw [cmd8Row, if_neg hm, hr]

/-- A command byte is its top bit and a register address (R92). -/
theorem cmd_byte_split : ∀ v : Byte, v = 0#1 ++ v.extractLsb' 0 7 ∨ v = 1#1 ++ v.extractLsb' 0 7 := by decide

theorem encode_cmd8Row (d : DevId) (v : Byte) :
    (cmd8Row d v).wf = true ∧ encode (cmd8Row d v) = [2, devByte d, v] := by
  rcases cmd_byte_split v with h | h <;> rw [h]
  · rw [cmd8Row_single]
    exact ⟨rfl, rfl⟩
  · rw [cmd8Row_block]
    exact ⟨rfl, rfl⟩

theorem decode_reg7WFrame (d : DevId) (r : RegAddr) (v : Byte) :
    decode [3, devByte d, word7 r, v] = .ok (reg7WRow d r v) := by
  simp [decode, decodeReg7W, withDev_devByte, withWord7_word7]

/-- A register without a write meaning is of the last row, which the seven with one precede. -/
theorem reg7WRow_hole (d : DevId) {r : RegAddr} (v : Byte) (h : writeMeaning r = false) :
    reg7WRow d r v = .rfWNone d r v := by
  simp only [writeMeaning, Bool.or_eq_false_iff, beq_eq_false_iff_ne] at h
  simp only [reg7WRow, h, if_false]

theorem encode_reg7WRow (d : DevId) (r : RegAddr) (v : Byte) :
    (reg7WRow d r v).wf = true ∧ encode (reg7WRow d r v) = [3, devByte d, word7 r, v] := by
  cases hm : writeMeaning r with
  | false =>
    rw [reg7WRow_hole d v hm]
    exact ⟨by rw [Instr.wf, hm]; rfl, rfl⟩
  | true =>
    simp only [writeMeaning, Bool.or_eq_true, beq_iff_eq] at hm
    rcases hm with (((((rfl | rfl) | rfl) | rfl) | rfl) | rfl) | rfl <;> exact ⟨rfl, rfl⟩

theorem decode_reg7RFrame (d : DevId) (r : RegAddr) : decode [4, devByte d, word7 r] = .ok (reg7RRow d r) := by
  simp [decode, decodeReg7R, withDev_devByte, withWord7_word7]

/-- A register without a read meaning is of the last row, which the four with one precede. -/
theorem reg7RRow_hole (d : DevId) {r : RegAddr} (h : readMeaning r = false) : reg7RRow d r = .rfRNone d r := by
  simp only [readMeaning, Bool.or_eq_false_iff, beq_eq_false_iff_ne] at h
  simp only [reg7RRow, h, if_false]

theorem encode_reg7RRow (d : DevId) (r : RegAddr) :
    (reg7RRow d r).wf = true ∧ encode (reg7RRow d r) = [4, devByte d, word7 r] := by
  cases hm : readMeaning r with
  | false =>
    rw [reg7RRow_hole d hm]
    exact ⟨by rw [Instr.wf, hm]; rfl, rfl⟩
  | true =>
    simp only [readMeaning, Bool.or_eq_true, beq_iff_eq] at hm
    rcases hm with ((rfl | rfl) | rfl) | rfl <;> exact ⟨rfl, rfl⟩

/-! ## The DEVOP and PORT rows -/

theorem decode_devopWriteFrame (d : DevId) (op v : Byte) : decode [5, devByte d, op, v] = devopWriteRow d op v := by
  simp [decode, decodeDevop, withDev_devByte]

theorem decode_devopReadFrame (d : DevId) (op : Byte) : decode [5, devByte d, op] = devopReadRow d op := by
  simp [decode, decodeDevop, withDev_devByte]

theorem encode_devopWriteRow {d : DevId} {op v : Byte} {i : Instr} (h : devopWriteRow d op v = .ok i) :
    i.wf = true ∧ encode i = [5, devByte d, op, v] := by
  unfold devopWriteRow at h
  split_ifs at h <;> cases h <;> subst op <;> exact ⟨rfl, rfl⟩

theorem encode_devopReadRow {d : DevId} {op : Byte} {i : Instr} (h : devopReadRow d op = .ok i) :
    i.wf = true ∧ encode i = [5, devByte d, op] := by
  unfold devopReadRow at h
  split_ifs at h <;> cases h <;> subst op <;> exact ⟨rfl, rfl⟩

theorem combine16_bytes (x : Tach) : combine16 (highByte x) (lowByte x) = x := by
  rw [combine16_toNat]
  apply BitVec.eq_of_toNat_eq
  have hx := x.isLt
  simp only [highByte, lowByte, BitVec.extractLsb'_toNat, BitVec.toNat_ofNat, Nat.shiftRight_eq_div_pow]
  omega

theorem lowByte_combine16 (hi lo : Byte) : lowByte (combine16 hi lo) = lo := by
  rw [combine16_toNat]
  apply BitVec.eq_of_toNat_eq
  have := hi.isLt
  have := lo.isLt
  simp only [lowByte, BitVec.extractLsb'_toNat, BitVec.toNat_ofNat, Nat.shiftRight_eq_div_pow]
  omega

theorem highByte_combine16 (hi lo : Byte) : highByte (combine16 hi lo) = hi := by
  rw [combine16_toNat]
  apply BitVec.eq_of_toNat_eq
  have := hi.isLt
  have := lo.isLt
  simp only [highByte, BitVec.extractLsb'_toNat, BitVec.toNat_ofNat, Nat.shiftRight_eq_div_pow]
  omega

theorem decode_rdReqFrame (k : SlotId) : decode [6, 0, slotByte k] = .ok (.hostRdReq k) := by
  simp [decode, decodePort, withSlot_slotByte]

theorem decode_rdEnFrame (k : SlotId) : decode [6, 1, slotByte k] = .ok (.hostRdEn k) := by
  simp [decode, decodePort, withSlot_slotByte]

theorem decode_wrActFrame (k : SlotId) (lo hi : Byte) :
    decode [6, 2, slotByte k, lo, hi] = .ok (.hostWrAct k (combine16 hi lo)) := by
  simp [decode, decodePort, withSlot_slotByte]

/-! ## What decodes, format by format -/

theorem decodeDisp7_ok {bs : List Byte} {i : Instr} (h : decodeDisp7 bs = .ok i) :
    i.wf = true ∧ encode i = 0 :: bs := by
  unfold decodeDisp7 at h
  split at h
  · obtain ⟨b, rfl, hb⟩ := withBus_ok h
    obtain ⟨w, rfl, hw⟩ := withWord7_ok hb
    obtain ⟨st, hst, hrow⟩ := withState_ok hw
    cases hrow
    exact encode_disp7Row hst
  · cases h

theorem decodeAddr8_ok {bs : List Byte} {i : Instr} (h : decodeAddr8 bs = .ok i) :
    i.wf = true ∧ encode i = 1 :: bs := by
  unfold decodeAddr8 at h
  split at h
  · obtain ⟨b, rfl, hb⟩ := withBus_ok h
    cases hb
    exact encode_addr8Row b _
  · cases h

theorem decodeCmd8_ok {bs : List Byte} {i : Instr} (h : decodeCmd8 bs = .ok i) :
    i.wf = true ∧ encode i = 2 :: bs := by
  unfold decodeCmd8 at h
  split at h
  · obtain ⟨d, rfl, hd⟩ := withDev_ok h
    cases hd
    exact encode_cmd8Row d _
  · cases h

theorem decodeReg7W_ok {bs : List Byte} {i : Instr} (h : decodeReg7W bs = .ok i) :
    i.wf = true ∧ encode i = 3 :: bs := by
  unfold decodeReg7W at h
  split at h
  · obtain ⟨d, rfl, hd⟩ := withDev_ok h
    obtain ⟨r, rfl, hr⟩ := withWord7_ok hd
    cases hr
    exact encode_reg7WRow d r _
  · cases h

theorem decodeReg7R_ok {bs : List Byte} {i : Instr} (h : decodeReg7R bs = .ok i) :
    i.wf = true ∧ encode i = 4 :: bs := by
  unfold decodeReg7R at h
  split at h
  · obtain ⟨d, rfl, hd⟩ := withDev_ok h
    obtain ⟨r, rfl, hr⟩ := withWord7_ok hd
    cases hr
    exact encode_reg7RRow d r
  · cases h

theorem decodeDevop_ok {bs : List Byte} {i : Instr} (h : decodeDevop bs = .ok i) :
    i.wf = true ∧ encode i = 5 :: bs := by
  unfold decodeDevop at h
  split at h
  · obtain ⟨d, rfl, hd⟩ := withDev_ok h
    exact encode_devopWriteRow hd
  · obtain ⟨d, rfl, hd⟩ := withDev_ok h
    exact encode_devopReadRow hd
  · cases h

theorem decodePort_ok {bs : List Byte} {i : Instr} (h : decodePort bs = .ok i) :
    i.wf = true ∧ encode i = 6 :: bs := by
  unfold decodePort at h
  split at h
  · split_ifs at h <;> cases h <;> subst_vars <;> exact ⟨rfl, rfl⟩
  · obtain ⟨k, rfl, hk⟩ := withSlot_ok h
    split_ifs at hk <;> cases hk <;> subst_vars <;> exact ⟨rfl, rfl⟩
  · obtain ⟨k, rfl, hk⟩ := withSlot_ok h
    split_ifs at hk
    cases hk
    subst_vars
    exact ⟨rfl, by rw [encode, lowByte_combine16, highByte_combine16]⟩
  · cases h

/-! ## The statements -/

/-- Settles O1, operation by operation: its frame decodes to the row of its word, and that row is the operation. -/
theorem encodedOperationsDecodeBack : Obligations.EncodedOperationsDecodeBack := by
  intro i hwf
  cases i with
  | evStop b st => exact decode_dataFrame b st true true
  | evStartIdle b => exact decode_dataFrame b .idle true false
  | evStartWrite b => exact decode_dataFrame b .write true false
  | evDatNopScl1 b st =>
    simp only [Instr.wf, Bool.and_eq_true, bne_iff_ne] at hwf
    rw [encode, decode_dataFrame, dataOp_of_ignored_start b hwf.1 hwf.2]
  | evDatNopScl0 b st sda => exact decode_dataFrame b st false sda
  | addrShift b sda => exact decode_clockFrame b .address true sda
  | addrAck b sda => exact decode_clockFrame b .addressAck false sda
  | rdPrep b sda => exact decode_clockFrame b .readPrepare false sda
  | rdBit b sda => exact decode_clockFrame b .read false sda
  | rdAck b sda => exact decode_clockFrame b .readAck false sda
  | wrPrep b sda => exact decode_clockFrame b .writePrepare false sda
  | wrShift b sda => exact decode_clockFrame b .write true sda
  | wrAck b sda => exact decode_clockFrame b .writeAck false sda
  | clkInertIdle b scl sda => exact decode_clockFrame b .idle scl sda
  | clkInertWaitStop b scl sda => exact decode_clockFrame b .waitStop scl sda
  | clkGuard b st scl sda => rw [encode, decode_clockFrame, clockRow_of_guard b sda (beq_iff_eq.1 hwf)]
  | addrFamW b oo => rw [encode, decode_addr8Frame, addr8Row_famW]
  | addrFamR b oo => rw [encode, decode_addr8Frame, addr8Row_famR]
  | addrAuxW b => exact (decode_addr8Frame b _).trans (congrArg Decoded.ok (addr8Row_auxW b))
  | addrAuxR b => exact (decode_addr8Frame b _).trans (congrArg Decoded.ok (addr8Row_auxR b))
  | addrNoMatch b a =>
    rw [encode, decode_addr8Frame, addr8Row_noMatch b (by simpa only [Instr.wf, Bool.not_eq_true'] using hwf)]
  | cmdSingle d r => rw [encode, decode_cmd8Frame, cmd8Row_single]
  | cmdBlock d r => rw [encode, decode_cmd8Frame, cmd8Row_block]
  | rfWRdcnt d v => exact decode_reg7WFrame d 0x00 v
  | rfWEnable d v => exact decode_reg7WFrame d 0x07 v
  | rfWReq0Lo d v => exact decode_reg7WFrame d 0x2A v
  | rfWReq0Hi d v => exact decode_reg7WFrame d 0x2B v
  | rfWReq1Lo d v => exact decode_reg7WFrame d 0x2C v
  | rfWReq1Hi d v => exact decode_reg7WFrame d 0x2D v
  | rfWStartTrig d v => exact decode_reg7WFrame d 0x3C v
  | rfWNone d r v =>
    rw [encode, decode_reg7WFrame, reg7WRow_hole d v (by simpa only [Instr.wf, Bool.not_eq_true'] using hwf)]
  | rfRAct0Lo d => exact decode_reg7RFrame d 0x4A
  | rfRAct0Hi d => exact decode_reg7RFrame d 0x4B
  | rfRAct1Lo d => exact decode_reg7RFrame d 0x4C
  | rfRAct1Hi d => exact decode_reg7RFrame d 0x4D
  | rfRNone d r =>
    rw [encode, decode_reg7RFrame, reg7RRow_hole d (by simpa only [Instr.wf, Bool.not_eq_true'] using hwf)]
  | dwIdle d v => exact decode_devopWriteFrame d 0 v
  | dwSingle d v => exact decode_devopWriteFrame d 1 v
  | dwBlockCount d v => exact decode_devopWriteFrame d 2 v
  | dwBlockRw d v => exact decode_devopWriteFrame d 3 v
  | dwInvalid d v => exact decode_devopWriteFrame d 4 v
  | drIdle d => exact decode_devopReadFrame d 5
  | drSingle d => exact decode_devopReadFrame d 6
  | drBlockCount d => exact decode_devopReadFrame d 7
  | drBlockRw d => exact decode_devopReadFrame d 8
  | drInvalid d => exact decode_devopReadFrame d 9
  | dstop d => exact decode_devopReadFrame d 10
  | hostRdReq k => exact decode_rdReqFrame k
  | hostRdEn k => exact decode_rdEnFrame k
  | hostWrAct k x => rw [encode, decode_wrActFrame, combine16_bytes]
  | hostTacStart => rfl
  | hostTacRpm => rfl

/-- Settles O2, by the first byte: each format's reader accepts only the frames its rows are written as. -/
theorem decodedFramesEncodeBack : Obligations.DecodedFramesEncodeBack := by
  intro bs i h
  cases bs with
  | nil => cases h
  | cons f rest =>
    simp only [decode] at h
    split_ifs at h with h0 h1 h2 h3 h4 h5 h6
    · exact h0 ▸ decodeDisp7_ok h
    · exact h1 ▸ decodeAddr8_ok h
    · exact h2 ▸ decodeCmd8_ok h
    · exact h3 ▸ decodeReg7W_ok h
    · exact h4 ▸ decodeReg7R_ok h
    · exact h5 ▸ decodeDevop_ok h
    · exact h6 ▸ decodePort_ok h

/-- Settles O3: sixteen closed frames, each evaluated. -/
theorem tableWordsDecodeAsTabled : Obligations.TableWordsDecodeAsTabled := by
  unfold Obligations.TableWordsDecodeAsTabled
  decide

end Sys2Proof
end

section
/-! PROOFS. The invariants of reachable states (spec/10_state.md R23, R48; spec/42_device_fsm.md R189;
spec/60_exceptions.md R253): reset meets them, each operation of the decoder keeps them, and so every hardware step
does; and the pin contract (spec/40_bus_decoder.md R137, R138), under which R48's table needs no proviso. -/

namespace Sys2Proof.Machine

/-! ## Reset -/

theorem reset_busAt (b : BusId) : State.reset.busAt b = BusCtx.reset := by simp [State.reset, State.busAt]

theorem reset_devAt (d : DevId) : State.reset.devAt d = DevCtx.reset := by simp [State.reset, State.devAt]

theorem resetBlock_devAt (s : State) (d : DevId) : s.resetBlock.devAt d = DevCtx.reset := reset_devAt d

/-! ## The address bits, by the branch they take (R127) -/

/-- R127 before the eighth bit. -/
theorem addrShiftCtx_of_ne (sda : Bool) {B : BusCtx} (h : B.bitcnt + 1 ≠ 8) :
    addrShiftCtx sda B = shiftAddrBit sda B :=
  if_neg (mt (byteDone_nextBit_iff _).1 h)

/-- R127 at the eighth bit of an address that matches. -/
theorem addrShiftCtx_of_match (sda : Bool) {B : BusCtx} (h : B.bitcnt + 1 = 8)
    (hm : matchAddr (addr7 (shiftIn B.addr sda)) = true) :
    addrShiftCtx sda B = addressMatched (shiftAddrBit sda B) :=
  (if_pos ((byteDone_nextBit_iff _).2 h)).trans (if_pos hm)

/-- R127 at the eighth bit of an address that does not match. -/
theorem addrShiftCtx_of_mismatch (sda : Bool) {B : BusCtx} (h : B.bitcnt + 1 = 8)
    (hm : matchAddr (addr7 (shiftIn B.addr sda)) = false) :
    addrShiftCtx sda B = addressMismatched (shiftAddrBit sda B) :=
  (if_pos ((byteDone_nextBit_iff _).2 h)).trans (if_neg (Bool.eq_false_iff.1 hm))

/-- What one address bit does, said once: it only counts, or it ends the byte in a match or in a mismatch. -/
theorem addrShiftCtx_cases (sda : Bool) (B : BusCtx) :
    (B.bitcnt + 1 ≠ 8 ∧ addrShiftCtx sda B = shiftAddrBit sda B) ∨
    (B.bitcnt + 1 = 8 ∧ matchAddr (addr7 (shiftIn B.addr sda)) = true ∧
      addrShiftCtx sda B = addressMatched (shiftAddrBit sda B)) ∨
    (B.bitcnt + 1 = 8 ∧ addrShiftCtx sda B = addressMismatched (shiftAddrBit sda B)) := by
  by_cases h : B.bitcnt + 1 = 8
  · cases hm : matchAddr (addr7 (shiftIn B.addr sda))
    · exact .inr (.inr ⟨h, addrShiftCtx_of_mismatch sda h hm⟩)
    · exact .inr (.inl ⟨h, rfl, addrShiftCtx_of_match sda h hm⟩)
  · exact .inl ⟨h, addrShiftCtx_of_ne sda h⟩

/-! ## What every operation of a decoder keeps -/

/-- What each operation of a decoder keeps of the bus context, in the state that selects it, an event keeps of all
bus contexts. -/
theorem case_keeps_bus {P : BusCtx → Prop} {b : BusId} {line : Line} {scl sda : Bool} {s t : State}
    (h : EventCase b line scl sda s t) (hs : ∀ c, P (s.busAt c))
    (stop : line = .data → scl = true → sda = true → monitored (s.busAt b).sdaMon = true →
      P { s.busAt b with state := .idle, sdaMon := .fall })
    (start : ∀ B, B.state = .idle ∨ B.state = .write → P B → P (startCtx B))
    (addrShift : ∀ B, B.state = .address → P B → P (addrShiftCtx sda B))
    (addrAck : ∀ B, B.state = .addressAck → P B → P (addrAckCtx B))
    (rdLoad : ∀ r B, B.state = .readPrepare → P B → P (rdLoadCtx r B))
    (rdBit : ∀ B, B.state = .read → P B → P (rdBitCtx B))
    (rdAck : ∀ B, B.state = .readAck → P B → P (rdAckCtx B))
    (wrPrep : ∀ B, B.state = .writePrepare → P B → P (wrPrepCtx B))
    (wrShift : ∀ B, B.state = .write → P B → P (wrShiftCtx sda B))
    (wrAck : ∀ B, B.state = .writeAck → P B →
      P { B with sdaDir := .out, sdaDrv := false, state := .writePrepare }) (c : BusId) : P (t.busAt c) := by
  obtain ⟨hother, hown⟩ := case_bus h
  by_cases hc : c = b
  case neg => rw [hother c hc]; exact hs c
  subst hc
  rcases hown with e | ⟨hl, hscl, hsda, hm, e⟩ | ⟨_, _, _, _, hst, e⟩ | ⟨_, _, clock⟩
  · rw [e]; exact hs c
  · rw [e]; exact stop hl hscl hsda hm
  · rw [e]; exact start _ hst (hs c)
  rcases clock with ⟨hst, e⟩ | ⟨hst, e⟩ | ⟨hst, r, e⟩ | ⟨hst, e⟩ | ⟨hst, e⟩ | ⟨hst, e⟩ | ⟨hst, e⟩ | ⟨hst, e⟩ <;> rw [e]
  · exact addrShift _ hst (hs c)
  · exact addrAck _ hst (hs c)
  · exact rdBit _ rfl (rdLoad r _ hst (hs c))
  · exact rdBit _ hst (hs c)
  · exact rdAck _ hst (hs c)
  · exact wrPrep _ hst (hs c)
  · exact wrShift _ hst (hs c)
  · exact wrAck _ hst (hs c)

/-! ## R48's table, operation by operation -/

section
variable {B : BusCtx}

theorem pinsOk_stop (h : B.sdaDir = .inp) : BusCtx.pinsOk { B with state := .idle, sdaMon := .fall } = true := by
  simp [BusCtx.pinsOk, h]

theorem pinsOk_startCtx (hs : B.state = .idle ∨ B.state = .write) (h : B.pinsOk = true) :
    (startCtx B).pinsOk = true := by
  rcases hs with hs | hs <;> simp_all [BusCtx.pinsOk, startCtx]

theorem pinsOk_addrShiftCtx (sda : Bool) (hs : B.state = .address) (h : B.pinsOk = true) :
    (addrShiftCtx sda B).pinsOk = true := by
  rcases addrShiftCtx_cases sda B with ⟨_, e⟩ | ⟨_, _, e⟩ | ⟨_, e⟩ <;> rw [e]
  · simpa [BusCtx.pinsOk, shiftAddrBit, hs] using h
  all_goals simp_all [BusCtx.pinsOk, addressMatched, addressMismatched, shiftAddrBit]

theorem pinsOk_addrAckCtx (hs : B.state = .addressAck) (h : B.pinsOk = true) : (addrAckCtx B).pinsOk = true := by
  cases hrw : rwBit B.addr <;> simp_all [BusCtx.pinsOk, addrAckCtx]

theorem pinsOk_rdBitCtx (hs : B.state = .read) (h : B.pinsOk = true) : (rdBitCtx B).pinsOk = true := by
  cases hd : byteDone (nextBit B.bitcnt) <;> simp_all [BusCtx.pinsOk, rdBitCtx]

theorem pinsOk_rdLoadCtx (r : Reply) (hs : B.state = .readPrepare) (h : B.pinsOk = true) :
    (rdLoadCtx r B).pinsOk = true := by
  simp_all [BusCtx.pinsOk, rdLoadCtx]

theorem pinsOk_rdAckCtx (hs : B.state = .readAck) (h : B.pinsOk = true) : (rdAckCtx B).pinsOk = true := by
  cases hl : B.last <;> simp_all [BusCtx.pinsOk, rdAckCtx]

theorem pinsOk_wrPrepCtx (hs : B.state = .writePrepare) (h : B.pinsOk = true) : (wrPrepCtx B).pinsOk = true := by
  simp_all [BusCtx.pinsOk, wrPrepCtx]

theorem pinsOk_wrShiftCtx (sda : Bool) (hs : B.state = .write) (h : B.pinsOk = true) :
    (wrShiftCtx sda B).pinsOk = true := by
  by_cases hb : B.bitcnt + 1 = 8
  · simp_all [wrShiftCtx_of_eq sda hb, BusCtx.pinsOk, shiftDataBit]
  · simp_all [wrShiftCtx_of_ne sda hb, BusCtx.pinsOk, shiftDataBit]

theorem pinsOk_wrAck (hs : B.state = .writeAck) (h : B.pinsOk = true) :
    BusCtx.pinsOk { B with sdaDir := .out, sdaDrv := false, state := .writePrepare } = true := by
  simp_all [BusCtx.pinsOk]

end

/-- An event keeps R48's table, if it is no stop delivered while the pin is driven. -/
theorem case_keeps_PinsOk {b line scl sda} {s t : State} (h : EventCase b line scl sda s t) (hp : s.PinsOk)
    (hstop : line = .data → scl = true → sda = true → monitored (s.busAt b).sdaMon = true →
      (s.busAt b).sdaDir = .inp) : t.PinsOk :=
  case_keeps_bus (P := fun B => B.pinsOk = true) h hp
    (stop := fun hl hc hd hm => pinsOk_stop (hstop hl hc hd hm))
    (start := fun _ => pinsOk_startCtx)
    (addrShift := fun _ => pinsOk_addrShiftCtx sda)
    (addrAck := fun _ => pinsOk_addrAckCtx)
    (rdLoad := fun r _ => pinsOk_rdLoadCtx r)
    (rdBit := fun _ => pinsOk_rdBitCtx)
    (rdAck := fun _ => pinsOk_rdAckCtx)
    (wrPrep := fun _ => pinsOk_wrPrepCtx)
    (wrShift := fun _ => pinsOk_wrShiftCtx sda)
    (wrAck := fun _ => pinsOk_wrAck)

/-! ## Addresses that reach the router, operation by operation (R253) -/

theorem addrOk_iff (B : BusCtx) : B.addrOk = true ↔
    (B.maddrValid = true → matchAddr (addr7 B.maddr) = true) ∧
    (addressed B.state = true → matchAddr (addr7 B.addr) = true) := by
  cases hv : B.maddrValid <;> cases hs : addressed B.state <;> simp [BusCtx.addrOk, hv, hs]

/-- An update that keeps the addresses, and does not leave the states outside the address phase for the others,
keeps the invariant. -/
theorem addrOk_of_same {B C : BusCtx} (h : B.addrOk = true) (hv : C.maddrValid = B.maddrValid)
    (hm : C.maddr = B.maddr) (ha : C.addr = B.addr) (hs : addressed C.state = true → addressed B.state = true) :
    C.addrOk = true := by
  rw [addrOk_iff] at h ⊢
  rw [hv, hm, ha]
  exact ⟨h.1, fun k => h.2 (hs k)⟩

theorem addrOk_startCtx {B : BusCtx} (h : B.addrOk = true) : (startCtx B).addrOk = true := by
  rw [addrOk_iff] at h ⊢
  exact ⟨h.1, nofun⟩

theorem addrOk_addrShiftCtx (sda : Bool) {B : BusCtx} (hs : B.state = .address) (h : B.addrOk = true) :
    (addrShiftCtx sda B).addrOk = true := by
  rw [addrOk_iff] at h ⊢
  rcases addrShiftCtx_cases sda B with ⟨_, e⟩ | ⟨_, hm, e⟩ | ⟨_, e⟩ <;> rw [e]
  · exact ⟨h.1, by simp [shiftAddrBit, hs, addressed]⟩
  · exact ⟨fun _ => hm, fun _ => hm⟩
  · exact ⟨h.1, nofun⟩

theorem addrOk_rdAckCtx {B : BusCtx} (hs : B.state = .readAck) (h : B.addrOk = true) :
    (rdAckCtx B).addrOk = true := by
  unfold rdAckCtx
  split <;> exact addrOk_of_same h rfl rfl rfl (by simp [hs, addressed])

theorem addrOk_wrShiftCtx (sda : Bool) {B : BusCtx} (hs : B.state = .write) (h : B.addrOk = true) :
    (wrShiftCtx sda B).addrOk = true := by
  unfold wrShiftCtx
  split <;> exact addrOk_of_same h rfl rfl rfl (by simp [hs, addressed])

/-- An event keeps the addresses that reach the router matching. -/
theorem case_keeps_AddrOk {b line scl sda} {s t : State} (h : EventCase b line scl sda s t) (ha : s.AddrOk) :
    t.AddrOk :=
  case_keeps_bus (P := fun B => B.addrOk = true) h ha
    (stop := fun _ _ _ _ => addrOk_of_same (ha b) rfl rfl rfl nofun)
    (start := fun _ _ => addrOk_startCtx)
    (addrShift := fun _ => addrOk_addrShiftCtx sda)
    (addrAck := fun _ hs k => addrOk_of_same k rfl rfl rfl (by simp [hs, addressed]))
    (rdLoad := fun _ _ hs k => addrOk_of_same k rfl rfl rfl (by simp [hs, addressed]))
    (rdBit := fun _ hs k => addrOk_of_same k rfl rfl rfl (by simp [hs, addressed]))
    (rdAck := fun _ => addrOk_rdAckCtx)
    (wrPrep := fun _ hs k => addrOk_of_same k rfl rfl rfl (by simp [hs, addressed]))
    (wrShift := fun _ => addrOk_wrShiftCtx sda)
    (wrAck := fun _ hs k => addrOk_of_same k rfl rfl rfl (by simp [hs, addressed]))

/-! ## The bit counters, operation by operation (R23) -/

/-- Whether bits are shifted in a state: its counter is then below 8. -/
def shifting : BusState → Bool
  | .address | .read | .write => true
  | _ => false

theorem busCountOk_iff (B : BusCtx) :
    B.countOk = true ↔ B.bitcnt.toNat ≤ 8 ∧ (shifting B.state = true → B.bitcnt.toNat < 8) := by
  cases hs : B.state <;> simp [BusCtx.countOk, shifting, hs, BitVec.lt_def, BitVec.le_def] <;> omega

theorem nextBit_toNat {n : BitVec 4} (h : n.toNat < 8) : (n + 1).toNat = n.toNat + 1 := by
  have h1 : (1 : BitVec 4).toNat = 1 := rfl
  rw [BitVec.toNat_add, h1]
  omega

/-- A counter one bit on that is not yet 8 stays below it. -/
theorem nextBit_lt {n : BitVec 4} (h : n.toNat < 8) (hn : n + 1 ≠ 8) : (n + 1).toNat < 8 := by
  have hne : (n + 1).toNat ≠ 8 := fun e => hn (BitVec.eq_of_toNat_eq e)
  rw [nextBit_toNat h] at hne ⊢
  omega

/-- A counter that is kept where no bits are shifted stays in range. -/
theorem busCountOk_of_same {B C : BusCtx} (h : B.countOk = true) (hb : C.bitcnt = B.bitcnt)
    (hs : shifting C.state = false) : C.countOk = true := by
  rw [busCountOk_iff] at h ⊢
  rw [hb, hs]
  exact ⟨h.1, nofun⟩

/-- A cleared counter is in range in every state. -/
theorem busCountOk_of_zero {B : BusCtx} (h : B.bitcnt = 0) : B.countOk = true := by
  rw [busCountOk_iff, h]
  exact ⟨by decide, fun _ => by decide⟩

/-- One bit more, in a state that shifts bits until the eighth, keeps the counter in range. -/
theorem busCountOk_nextBit {B C : BusCtx} (h : B.countOk = true) (hs : shifting B.state = true)
    (hb : C.bitcnt = B.bitcnt + 1) (hc : B.bitcnt + 1 = 8 → shifting C.state = false) : C.countOk = true := by
  rw [busCountOk_iff] at h ⊢
  have hlt := h.2 hs
  rw [hb]
  refine ⟨by rw [nextBit_toNat hlt]; omega, fun k => nextBit_lt hlt fun e => ?_⟩
  rw [hc e] at k
  cases k

theorem busCountOk_addrShiftCtx (sda : Bool) {B : BusCtx} (hs : B.state = .address) (h : B.countOk = true) :
    (addrShiftCtx sda B).countOk = true := by
  have hsh : shifting B.state = true := by rw [hs]; rfl
  rcases addrShiftCtx_cases sda B with ⟨hn, e⟩ | ⟨_, _, e⟩ | ⟨_, e⟩ <;> rw [e]
  · exact busCountOk_nextBit h hsh rfl fun k => absurd k hn
  · exact busCountOk_nextBit h hsh rfl fun _ => rfl
  · exact busCountOk_nextBit h hsh rfl fun _ => rfl

theorem busCountOk_rdBitCtx {B : BusCtx} (hs : B.state = .read) (h : B.countOk = true) :
    (rdBitCtx B).countOk = true :=
  busCountOk_nextBit h (by rw [hs]; rfl) rfl fun k => by rw [rdBitCtx_state, if_pos k]; rfl

theorem busCountOk_wrShiftCtx (sda : Bool) {B : BusCtx} (hs : B.state = .write) (h : B.countOk = true) :
    (wrShiftCtx sda B).countOk = true := by
  have hsh : shifting B.state = true := by rw [hs]; rfl
  by_cases hb : B.bitcnt + 1 = 8
  · rw [wrShiftCtx_of_eq sda hb]
    exact busCountOk_nextBit h hsh rfl fun _ => rfl
  · rw [wrShiftCtx_of_ne sda hb]
    exact busCountOk_nextBit h hsh rfl fun k => absurd k hb

theorem busCountOk_addrAckCtx {B : BusCtx} (h : B.countOk = true) : (addrAckCtx B).countOk = true := by
  refine busCountOk_of_same h rfl ?_
  unfold addrAckCtx
  dsimp only
  split <;> rfl

theorem busCountOk_rdAckCtx {B : BusCtx} (h : B.countOk = true) : (rdAckCtx B).countOk = true := by
  unfold rdAckCtx
  split <;> exact busCountOk_of_same h rfl rfl

/-- An event keeps the bit counters in range. -/
theorem case_keeps_bus_countOk {b line scl sda} {s t : State} (h : EventCase b line scl sda s t)
    (hb : ∀ c, (s.busAt c).countOk = true) : ∀ c, (t.busAt c).countOk = true :=
  case_keeps_bus (P := fun B => B.countOk = true) h hb
    (stop := fun _ _ _ _ => busCountOk_of_same (hb b) rfl rfl)
    (start := fun _ _ _ => busCountOk_of_zero rfl)
    (addrShift := fun _ => busCountOk_addrShiftCtx sda)
    (addrAck := fun _ _ => busCountOk_addrAckCtx)
    (rdLoad := fun _ _ _ _ => busCountOk_of_zero rfl)
    (rdBit := fun _ => busCountOk_rdBitCtx)
    (rdAck := fun _ _ => busCountOk_rdAckCtx)
    (wrPrep := fun _ _ _ => busCountOk_of_zero rfl)
    (wrShift := fun _ => busCountOk_wrShiftCtx sda)
    (wrAck := fun _ _ k => busCountOk_of_same k rfl rfl)

/-! ## The count of a running block, operation by operation (R189) -/

theorem devCountOk_iff (D : DevCtx) : D.countOk = true ↔ (D.dstate = .blockRw → D.cnt ≠ 0) := by
  by_cases h : D.dstate = .blockRw <;> simp [DevCtx.countOk, h]

theorem devCountOk_of_ne {D : DevCtx} (h : D.dstate ≠ .blockRw) : D.countOk = true :=
  (devCountOk_iff D).2 fun k => absurd k h

/-- A device that is `INVALID` whenever its count is 0 has no running block without a count. -/
theorem devCountOk_of_zero {D : DevCtx} (h : D.cnt = 0 → D.dstate = .invalid) : D.countOk = true := by
  rw [devCountOk_iff]
  intro hs hz
  rw [h hz] at hs
  cases hs

/-- A block goes on only with a count left. -/
theorem devCountOk_blockAdvance (D : DevCtx) : (blockAdvance D).countOk = true :=
  devCountOk_of_zero fun h => if_pos h

/-- A block starts only with a count that is not 0. -/
theorem devCountOk_loadCount (D : DevCtx) (v : Byte) :
    DevCtx.countOk { D with cnt := v, dstate := if v = 0 then .invalid else .blockRw } = true :=
  devCountOk_of_zero fun h => if_pos h

theorem devCountOk_devWrite (d : DevId) (v : Byte) (s : State) (h : (s.devAt d).countOk = true) :
    ((devWrite d v s).devAt d).countOk = true := by
  unfold devWrite
  split
  · rw [dwIdleOp, devAt_modDev_self]
    exact devCountOk_of_ne (by dsimp only; split <;> decide)
  · rw [devAt_dwSingleOp]
    exact devCountOk_of_ne nofun
  · rw [dwBlockCountOp, devAt_modDev_self]
    exact devCountOk_loadCount _ v
  · rw [dwBlockRwOp, devAt_modDev_self]
    exact devCountOk_blockAdvance _
  · exact h

theorem devCountOk_devRead (d : DevId) (s : State) (h : (s.devAt d).countOk = true) :
    ((devRead d s).2.devAt d).countOk = true := by
  unfold devRead
  split
  · exact h
  · rw [drSingleOp, devAt_modDev_self]
    exact devCountOk_of_ne nofun
  · rw [drBlockCountOp, devAt_modDev_self]
    exact devCountOk_loadCount _ _
  · rw [drBlockRwOp, devAt_modDev_self]
    exact devCountOk_blockAdvance _
  · exact h

/-- An event keeps the count of every running block at least 1. -/
theorem case_keeps_dev_countOk {b line scl sda} {s t : State} (h : EventCase b line scl sda s t)
    (hd : ∀ d, (s.devAt d).countOk = true) (d : DevId) : (t.devAt d).countOk = true := by
  rcases case_dev h with same | ⟨e, hother, hown⟩
  · rw [same]; exact hd d
  by_cases hde : d = e
  case neg => rw [hother d hde]; exact hd d
  subst hde
  rcases hown with ⟨stop, _⟩ | ⟨read, _⟩ | ⟨write, _⟩
  · rw [stop, devStop, devAt_modDev_self]
    exact devCountOk_of_ne nofun
  · rw [read]; exact devCountOk_devRead d s (hd d)
  · rw [write]; exact devCountOk_devWrite d _ s (hd d)

/-! ## What hardware steps keep -/

/-- What every event keeps, and reset brings about, every hardware step keeps, for a property of the buses and the
devices alone: neither taking an input nor a port call reaches these (R47). -/
theorem hw_step_keeps {P : State → Prop} (hcongr : ∀ u v : State, v.bus = u.bus → v.dev = u.dev → P u → P v)
    (hreset : P State.reset)
    {s t : State} (hn : s.hardwareNext) (hstep : step s = .next t)
    (hevent : ∀ b line scl sda rest, s.inputs = .event b line scl sda :: rest →
      EventCase b line scl sda { s with inputs := rest } t → P { s with inputs := rest } → P t)
    (hs : P s) : P t := by
  rcases hw_cases hn hstep with ⟨_, rfl⟩ | ⟨b, line, scl, sda, rest, hi, hcase⟩ |
    ⟨_, _, _, _, _, _, _, hbus, hdev⟩ | ⟨rest, _, rfl⟩
  · exact hs
  · exact hevent b line scl sda rest hi hcase (hcongr s _ rfl rfl hs)
  · exact hcongr s t hbus hdev hs
  · exact hcongr State.reset _ rfl rfl hreset

theorem State.PinsOk.congr (u v : State) (hb : v.bus = u.bus) (_ : v.dev = u.dev) (h : u.PinsOk) : v.PinsOk := by
  unfold State.PinsOk State.busAt at h ⊢
  rwa [hb]

theorem State.AddrOk.congr (u v : State) (hb : v.bus = u.bus) (_ : v.dev = u.dev) (h : u.AddrOk) : v.AddrOk := by
  unfold State.AddrOk State.busAt at h ⊢
  rwa [hb]

theorem State.CountsOk.congr (u v : State) (hb : v.bus = u.bus) (hd : v.dev = u.dev) (h : u.CountsOk) : v.CountsOk := by
  unfold State.CountsOk State.busAt State.devAt at h ⊢
  rwa [hb, hd]

/-! ## The pin contract (R137, R138) -/

/-- A monitored data wire that the block has as an output is pulled low: with R48's table, only the acknowledge drives
it while it is watched. -/
theorem pullsLow_of_monitored {B : BusCtx} (h : B.pinsOk = true) (hm : monitored B.sdaMon = true)
    (hd : B.sdaDir = .out) : pullsLow B = true := by
  unfold BusCtx.pinsOk at h
  split at h <;> simp_all [pullsLow, sdaOe, sdaO, monitored]

/-- Delivering an event to the block is a case of that event, and leaves the master's outputs. -/
theorem deliver_cases {p q : PinState} {b : BusId} {line : Line} {scl sda : Bool}
    (h : p.deliver b line scl sda = .next q) :
    EventCase b line scl sda p.block q.block ∧ q.wires = p.wires := by
  obtain ⟨t, ht, hcase⟩ := runEvent_cases b line scl sda p.block
  rw [PinState.deliver, ht] at h
  cases h
  exact ⟨hcase, rfl⟩

/-- The edge of the data wire keeps R48's table: a wire seen high is not pulled low by the block. -/
theorem settleData_keeps_PinsOk {p q : PinState} {b : BusId} {before : Bool} (hp : p.block.PinsOk)
    (h : p.settleData b before = .next q) : q.block.PinsOk := by
  unfold PinState.settleData at h
  dsimp only at h
  split at h
  case isFalse => cases h; exact hp
  refine case_keeps_PinsOk (deliver_cases h).1 hp fun _ _ hhigh hm => ?_
  by_contra hdir
  have hout : (p.block.busAt b).sdaDir = .out := by
    cases hd : (p.block.busAt b).sdaDir
    · exact absurd hd hdir
    · rfl
  rw [sdaWire, pullsLow_of_monitored (hp b) hm hout, Bool.not_true, Bool.and_false] at hhigh
  cases hhigh

/-! ## The clock high (R297) -/

/-- With R48's table, a state whose clock row takes one level is armed for that level. -/
theorem armedLevel_of_clockColumn {B : BusCtx} {level : Bool} (h : B.pinsOk = true)
    (hc : clockColumn B.state = some level) : armedLevel B.sclArm = level := by
  unfold BusCtx.pinsOk at h
  split at h <;> simp_all [clockColumn, armedLevel]

/-- An event that reports the clock high leaves the direction and the drive of the pin (R48: every operation that
writes them is armed for the falling edge). -/
theorem case_clock_high_keeps_pin {b line sda} {s t : State} (h : EventCase b line true sda s t)
    (hp : (s.busAt b).pinsOk = true) :
    (t.busAt b).sdaDir = (s.busAt b).sdaDir ∧ (t.busAt b).sdaDrv = (s.busAt b).sdaDrv := by
  rcases (case_bus h).2 with same | ⟨_, _, _, _, stop⟩ | ⟨_, _, _, _, _, start⟩ | ⟨_, harm, clock⟩
  · rw [same]; exact ⟨rfl, rfl⟩
  · rw [stop]; exact ⟨rfl, rfl⟩
  · rw [start]; exact ⟨rfl, rfl⟩
  have falling (h : clockColumn (s.busAt b).state = some false) : False :=
    absurd (harm.trans (armedLevel_of_clockColumn hp h)) (by decide)
  rcases clock with ⟨_, e⟩ | ⟨hs, _⟩ | ⟨hs, _⟩ | ⟨hs, _⟩ | ⟨hs, _⟩ | ⟨hs, _⟩ | ⟨_, e⟩ | ⟨hs, _⟩
  · rw [e]
    rcases addrShiftCtx_cases sda (s.busAt b) with ⟨_, e⟩ | ⟨_, _, e⟩ | ⟨_, e⟩ <;> rw [e] <;> exact ⟨rfl, rfl⟩
  · exact (falling (by rw [hs]; rfl)).elim
  · exact (falling (by rw [hs]; rfl)).elim
  · exact (falling (by rw [hs]; rfl)).elim
  · exact (falling (by rw [hs]; rfl)).elim
  · exact (falling (by rw [hs]; rfl)).elim
  · rw [e, wrShiftCtx]
    split <;> exact ⟨rfl, rfl⟩
  · exact (falling (by rw [hs]; rfl)).elim

/-! ## The statements -/

/-- Settles O10: every bus and every device is at its reset value. -/
theorem resetMeetsTheInvariants : Obligations.ResetMeetsTheInvariants := by
  refine ⟨fun b => ?_, fun b => ?_, fun b => ?_, fun d => ?_⟩
  · rw [reset_busAt]; rfl
  · rw [reset_busAt]; rfl
  · rw [reset_busAt]; rfl
  · rw [reset_devAt]; rfl

/-- Settles O50, by what an event keeps; the proviso on stops is that of `noStopWhileDriving`. -/
theorem stepKeepsThePinTable : Obligations.StepKeepsThePinTable := by
  intro s t hp hn hstop hstep
  refine hw_step_keeps State.PinsOk.congr resetMeetsTheInvariants.1 hn hstep ?_ hp
  intro b line scl sda rest hi hcase hp'
  refine case_keeps_PinsOk hcase hp' ?_
  rintro rfl rfl rfl hm
  exact hstop b rest hi hm

/-- Settles O51, by what an event keeps of the addresses, of the bit counters and of the block counts. -/
theorem stepKeepsAddressesAndCounters : Obligations.StepKeepsAddressesAndCounters := by
  obtain ⟨_, haddr, hcounts⟩ := resetMeetsTheInvariants
  intro s t hn hstep
  constructor
  · exact hw_step_keeps State.AddrOk.congr haddr hn hstep fun _ _ _ _ _ _ hcase ha => case_keeps_AddrOk hcase ha
  · refine hw_step_keeps State.CountsOk.congr hcounts hn hstep fun _ _ _ _ _ _ hcase hc => ?_
    exact ⟨case_keeps_bus_countOk hcase hc.1, case_keeps_dev_countOk hcase hc.2⟩

/-- Settles O59: a clock edge is no stop, and the data edge after it, or after the master's own change, is settled
with the wire at its level by R138. -/
theorem pinContractKeepsThePinTable : Obligations.PinContractKeepsThePinTable := by
  intro p q b c hp h
  cases c with
  | sda level =>
    simp only [PinState.drive] at h
    refine settleData_keeps_PinsOk ?_ h
    exact hp
  | scl level =>
    simp only [PinState.drive] at h
    split at h
    case isFalse => cases h; exact hp
    split at h
    case h_1 r hr =>
      exact settleData_keeps_PinsOk (case_keeps_PinsOk (deliver_cases hr).1 hp nofun) h
    all_goals cases h

/-- Settles O60: the two output ports are functions of the direction and the drive. -/
theorem pinActionsHappenWhileTheClockIsLow : Obligations.PinActionsHappenWhileTheClockIsLow := by
  intro s t b line sda rest hp hi hstep
  obtain ⟨hdir, hdrv⟩ := case_clock_high_keeps_pin (event_case hi hstep) (hp b)
  exact ⟨by rw [sdaOe, hdir]; rfl, by rw [sdaO, hdrv]; rfl⟩

end Sys2Proof.Machine
end

section
/-! PROOFS. The statements about the router (spec/41_address_router.md): the index formula, and what each of the three
dispatch operations does for each outcome. -/

namespace Sys2Proof.Machine

/-! ## The index formula (R170) -/

/-- The 7-bit address is the address byte without its last bit (R91). -/
theorem addr7_toNat (a : Byte) : (addr7 a).toNat = a.toNat / 2 := by
  have := a.isLt
  rw [addr7, BitVec.extractLsb'_toNat, Nat.shiftRight_eq_div_pow]
  omega

/-- The index of an address byte, written out (R98). -/
theorem deviceIndex_addr7 (b : BusId) (a : Byte) : deviceIndex b (addr7 a) =
    4 * (b.val : Int) + (3 - ((a.toNat / 2 : Nat) - (Config.devBase.toNat : Int))) := by
  rw [deviceIndex, addr7_toNat]

section
variable {b : BusId} {a : Byte}

theorem route_of_aux (h : addr7 a = Config.auxAddr) : route b a = .aux := if_pos h

theorem route_of_index (h : addr7 a ≠ Config.auxAddr)
    (hi : 0 ≤ deviceIndex b (addr7 a) ∧ deviceIndex b (addr7 a) ≤ 7) :
    route b a = .dev ⟨(deviceIndex b (addr7 a)).toNat, by omega⟩ :=
  (if_neg h).trans (dif_pos hi)

theorem route_of_out_of_range (h : addr7 a ≠ Config.auxAddr)
    (hi : ¬(0 ≤ deviceIndex b (addr7 a) ∧ deviceIndex b (addr7 a) ≤ 7)) : route b a = .none :=
  (if_neg h).trans (dif_neg hi)

/-! ## The three operations, by the router's outcome (R172 to R174) -/

theorem onByteWritten_of_dev {d : DevId} (h : route b a = .dev d) (v : Byte) (s : State) :
    onByteWritten b a v s = devWrite d v s := by rw [onByteWritten, h]

theorem onByteRequested_of_dev {d : DevId} (h : route b a = .dev d) (s : State) :
    onByteRequested b a s = devRead d s := by rw [onByteRequested, h]

theorem onStop_of_dev {d : DevId} (h : route b a = .dev d) (s : State) : onStop b a s = devStop d s := by
  rw [onStop, h]

theorem onByteWritten_of_aux (h : route b a = .aux) (v : Byte) (s : State) : onByteWritten b a v s = s := by
  rw [onByteWritten, h]

theorem onByteRequested_of_aux (h : route b a = .aux) (s : State) :
    onByteRequested b a s = (⟨Config.auxSentinel, true⟩, s) := by rw [onByteRequested, h]

theorem onStop_of_aux (h : route b a = .aux) (s : State) : onStop b a s = s := by rw [onStop, h]

theorem onByteWritten_of_none (h : route b a = .none) (v : Byte) (s : State) : onByteWritten b a v s = s := by
  rw [onByteWritten, h, drop_eq]

theorem onByteRequested_of_none (h : route b a = .none) (s : State) :
    onByteRequested b a s = (⟨(s.drawAny8 b).1, true⟩, (s.drawAny8 b).2) := by rw [onByteRequested, h]

theorem onStop_of_none (h : route b a = .none) (s : State) : onStop b a s = s := by rw [onStop, h, drop_eq]

end

/-! ## The statements -/

/-- Settles O26: the router's three branches, with the index on the whole byte. -/
theorem routeIsTheIndexFormula : Obligations.RouteIsTheIndexFormula := by
  intro b a idx hidx
  rw [← deviceIndex_addr7] at hidx
  subst hidx
  refine ⟨route_of_aux, fun h hlo hhi => ?_, route_of_out_of_range⟩
  exact ⟨_, Int.toNat_of_nonneg hlo, route_of_index h ⟨hlo, hhi⟩⟩

/-- Settles O27, outcome by outcome. -/
theorem routedOperationsReachTheirDevice : Obligations.RoutedOperationsReachTheirDevice := by
  intro b a v s
  refine ⟨fun d h => ?_, fun h => ?_, fun h => ?_⟩
  · exact ⟨onByteWritten_of_dev h v s, onByteRequested_of_dev h s, onStop_of_dev h s⟩
  · exact ⟨onByteWritten_of_aux h v s, onByteRequested_of_aux h s, onStop_of_aux h s⟩
  · rw [onByteRequested_of_none h]
    exact ⟨onByteWritten_of_none h v s, onStop_of_none h s, rfl, rfl, rfl, rfl⟩

end Sys2Proof.Machine
end

section
/-! PROOFS. The two sides of the block (spec/20_memory.md R72): a step of one decoder writes only its own side, reads
only its own side, and so commutes with a step of the other. -/

namespace Sys2Proof.Machine

/-! ## Writing only one side -/

theorem OnlySide.refl (b : BusId) (s : State) : OnlySide b s s := ⟨fun c _ => SameSide.refl c s, rfl, rfl, rfl⟩

theorem OnlySide.trans {b : BusId} {s t u : State} (h : OnlySide b s t) (k : OnlySide b t u) : OnlySide b s u where
  otherSide c hc := (h.otherSide c hc).trans (k.otherSide c hc)
  actual := k.actual.trans h.actual
  inputs := k.inputs.trans h.inputs
  answer := k.answer.trans h.answer

/-- An operation of a device writes only the side of its bus. -/
theorem DevEffect.onlySide {d : DevId} {s t : State} (h : DevEffect d s t) : OnlySide (busOf d) s t :=
  ⟨fun _ hc => h.otherSide hc, h.actual, h.inputs, h.answer⟩

section
variable {b : BusId} {a : Byte}

theorem onByteWritten_onlySide (hm : matchAddr (addr7 a) = true) (v : Byte) (s : State) :
    OnlySide b s (onByteWritten b a v s) := by
  rcases route_of_match (b := b) hm with h | ⟨d, h, rfl⟩
  · rw [onByteWritten_of_aux h]; exact .refl _ s
  · rw [onByteWritten_of_dev h]; exact (devWrite_effect d v s).onlySide

theorem onByteRequested_onlySide (hm : matchAddr (addr7 a) = true) (s : State) :
    OnlySide b s (onByteRequested b a s).2 := by
  rcases route_of_match (b := b) hm with h | ⟨d, h, rfl⟩
  · rw [onByteRequested_of_aux h]; exact .refl _ s
  · rw [onByteRequested_of_dev h]; exact (devRead_effect d s).onlySide

theorem onStop_onlySide (hm : matchAddr (addr7 a) = true) (s : State) : OnlySide b s (onStop b a s) := by
  rcases route_of_match (b := b) hm with h | ⟨d, h, rfl⟩
  · rw [onStop_of_aux h]; exact .refl _ s
  · rw [onStop_of_dev h]; exact (devStop_effect d s).onlySide

end

/-! ## Reading only one side -/

section
variable {b : BusId} {a : Byte} {s t : State}

theorem SameSide.onByteWritten (hm : matchAddr (addr7 a) = true) (h : SameSide b s t) (v : Byte) :
    SameSide b (onByteWritten b a v s) (onByteWritten b a v t) := by
  rcases route_of_match (b := b) hm with hr | ⟨d, hr, hd⟩
  · rw [onByteWritten_of_aux hr, onByteWritten_of_aux hr]; exact h
  · rw [onByteWritten_of_dev hr, onByteWritten_of_dev hr]; exact h.devWrite hd v

theorem SameSide.onByteRequested (hm : matchAddr (addr7 a) = true) (h : SameSide b s t) :
    (onByteRequested b a t).1 = (onByteRequested b a s).1 ∧
      SameSide b (onByteRequested b a s).2 (onByteRequested b a t).2 := by
  rcases route_of_match (b := b) hm with hr | ⟨d, hr, hd⟩
  · rw [onByteRequested_of_aux hr, onByteRequested_of_aux hr]; exact ⟨rfl, h⟩
  · rw [onByteRequested_of_dev hr, onByteRequested_of_dev hr]; exact h.devRead hd

theorem SameSide.onStop (hm : matchAddr (addr7 a) = true) (h : SameSide b s t) :
    SameSide b (onStop b a s) (onStop b a t) := by
  rcases route_of_match (b := b) hm with hr | ⟨d, hr, hd⟩
  · rw [onStop_of_aux hr, onStop_of_aux hr]; exact h
  · rw [onStop_of_dev hr, onStop_of_dev hr]; exact h.modDev hd _

end

/-! ## The three decoder operations that reach a device (R122, R130, R135) -/

section
variable {b : BusId} {s : State} (ha : s.AddrOk)
include ha

theorem maddr_matches (hv : (s.busAt b).maddrValid = true) : matchAddr (addr7 (s.busAt b).maddr) = true :=
  ((addrOk_iff _).1 (ha b)).1 hv

theorem addr_matches (hs : addressed (s.busAt b).state = true) : matchAddr (addr7 (s.busAt b).addr) = true :=
  ((addrOk_iff _).1 (ha b)).2 hs

theorem stopOp_onlySide : OnlySide b s (stopOp b s) := by
  rw [stopOp_eq]
  refine OnlySide.trans ?_ (onlySide_modBus _ b _)
  unfold tellStop
  split
  · exact onStop_onlySide (maddr_matches ha ‹_›) s
  · exact .refl b s

theorem rdPrepOp_onlySide (hs : (s.busAt b).state = .readPrepare) : OnlySide b s (rdPrepOp b s) := by
  rw [rdPrepOp_eq]
  exact (onByteRequested_onlySide (addr_matches ha (by rw [hs]; rfl)) s).trans (onlySide_modBus _ b _)

theorem wrAckOp_onlySide (hs : (s.busAt b).state = .writeAck) : OnlySide b s (wrAckOp b s) := by
  rw [wrAckOp_eq]
  exact (onByteWritten_onlySide (addr_matches ha (by rw [hs]; rfl)) _ s).trans (onlySide_modBus _ b _)

variable {s' : State} (h : SameSide b s s')
include h

theorem SameSide.stopOp : SameSide b (stopOp b s) (stopOp b s') := by
  rw [stopOp_eq, stopOp_eq]
  refine SameSide.modBus ?_ _ _ rfl
  unfold tellStop
  rw [h.bus]
  split
  · exact h.onStop (maddr_matches ha ‹_›)
  · exact h

theorem SameSide.rdPrepOp (hs : (s.busAt b).state = .readPrepare) :
    SameSide b (rdPrepOp b s) (rdPrepOp b s') := by
  obtain ⟨hreply, hside⟩ := h.onByteRequested (addr_matches ha (b := b) (by rw [hs]; rfl))
  rw [rdPrepOp_eq, rdPrepOp_eq, h.bus]
  exact hside.modBus _ _ (by rw [hreply])

theorem SameSide.wrAckOp (hs : (s.busAt b).state = .writeAck) : SameSide b (wrAckOp b s) (wrAckOp b s') := by
  rw [wrAckOp_eq, wrAckOp_eq, deliverByte, deliverByte, h.bus]
  exact (h.onByteWritten (addr_matches ha (by rw [hs]; rfl)) _).modBus _ _ rfl

end

/-! ## Events -/

/-- An event of one bus writes only its side. -/
theorem case_onlySide {b line scl sda} {s t : State} (h : EventCase b line scl sda s t) (ha : s.AddrOk) :
    OnlySide b s t := by
  cases h
  case inert => exact .refl b s
  case stop => exact stopOp_onlySide ha
  case rdPrep hs => exact rdPrepOp_onlySide ha hs
  case wrAck hs => exact wrAckOp_onlySide ha hs
  all_goals exact onlySide_modBus s b _

/-- What an event does in one state it does in every state that agrees on its side, and they agree there after it. -/
theorem case_transfer {b line scl sda} {s s' t : State} (h : EventCase b line scl sda s t) (ha : s.AddrOk)
    (hs : SameSide b s s') : ∃ t', EventCase b line scl sda s' t' ∧ SameSide b t t' := by
  have hb := hs.bus
  cases h with
  | inert h => exact ⟨s', .inert (by rwa [hb]), hs⟩
  | stop hl hc hd hm => exact ⟨_, .stop hl hc hd (by rwa [hb]), hs.stopOp ha⟩
  | start hl hc hd hm hst => exact ⟨_, .start hl hc hd (by rwa [hb]) (by rwa [hb]), hs.modBus _ _ rfl⟩
  | addrShift hl hc hst => exact ⟨_, .addrShift hl (by rwa [hb]) (by rwa [hb]), hs.modBus _ _ rfl⟩
  | addrAck hl hc hst => exact ⟨_, .addrAck hl (by rwa [hb]) (by rwa [hb]), hs.modBus _ _ rfl⟩
  | rdPrep hl hc hst => exact ⟨_, .rdPrep hl (by rwa [hb]) (by rwa [hb]), hs.rdPrepOp ha hst⟩
  | rdBit hl hc hst => exact ⟨_, .rdBit hl (by rwa [hb]) (by rwa [hb]), hs.modBus _ _ rfl⟩
  | rdAck hl hc hst => exact ⟨_, .rdAck hl (by rwa [hb]) (by rwa [hb]), hs.modBus _ _ rfl⟩
  | wrPrep hl hc hst => exact ⟨_, .wrPrep hl (by rwa [hb]) (by rwa [hb]), hs.modBus _ _ rfl⟩
  | wrShift hl hc hst => exact ⟨_, .wrShift hl (by rwa [hb]) (by rwa [hb]), hs.modBus _ _ rfl⟩
  | wrAck hl hc hst => exact ⟨_, .wrAck hl (by rwa [hb]) (by rwa [hb]), hs.wrAckOp ha hst⟩

/-- A data-line event that is no delivered stop and no accepted start changes nothing (R120, R124). -/
theorem runEvent_data_inert {b : BusId} {scl sda : Bool} {s : State}
    (h : monitored (s.busAt b).sdaMon = false ∨ scl = false ∨
      (sda = false ∧ (s.busAt b).state ≠ .idle ∧ (s.busAt b).state ≠ .write)) :
    runEvent b .data scl sda s = .next s := by
  cases hm : monitored (s.busAt b).sdaMon with
  | false => simp [runEvent, select, hm]
  | true =>
    rw [hm] at h
    rcases h with h | rfl | ⟨rfl, hi, hw⟩
    · cases h
    · simp only [runEvent, select, hm, if_true]; rfl
    cases scl
    · simp only [runEvent, select, hm, if_true]; rfl
    · simp only [runEvent, select, hm, if_true, dataOp_of_ignored_start b hi hw]; rfl

/-- A clock event that does not pass the guard, or comes in a state without a clock operation, changes nothing (R125,
R126). -/
theorem runEvent_clock_inert {b : BusId} {scl sda : Bool} {s : State}
    (h : scl ≠ armedLevel (s.busAt b).sclArm ∨ (s.busAt b).state = .idle ∨ (s.busAt b).state = .waitStop) :
    runEvent b .clock scl sda s = .next s := by
  by_cases hc : scl = armedLevel (s.busAt b).sclArm
  · rcases h with h | hs | hs
    · exact absurd hc h
    · simp only [runEvent, select, if_pos hc, hs]; rfl
    · simp only [runEvent, select, if_pos hc, hs]; rfl
  · simp only [runEvent, select, if_neg hc]; rfl

/-- The case of an event is its outcome: there is one at most. -/
theorem runEvent_of_case {b line scl sda} {s t : State} (h : EventCase b line scl sda s t) :
    runEvent b line scl sda s = .next t := by
  have clock {st : BusState} (hl : line = .clock) (hc : scl = armedLevel (s.busAt b).sclArm)
      (hs : (s.busAt b).state = st) : runEvent b line scl sda s = exec (clockOp b st scl sda) s := by
    rw [runEvent, hl, select, if_pos hc, hs]
  cases h with
  | inert h =>
    rcases h with ⟨rfl, h⟩ | ⟨rfl, h⟩
    · exact runEvent_data_inert h
    · exact runEvent_clock_inert h
  | stop hl hc hd hm => subst hl hc hd; rw [runEvent, select, if_pos hm]; rfl
  | start hl hc hd hm hs =>
    subst hl hc hd
    rw [runEvent, select, if_pos hm]
    rcases hs with hs | hs <;> rw [hs] <;> rfl
  | addrShift hl hc hs => exact clock hl hc hs
  | addrAck hl hc hs => exact clock hl hc hs
  | rdPrep hl hc hs => exact clock hl hc hs
  | rdBit hl hc hs => exact clock hl hc hs
  | rdAck hl hc hs => exact clock hl hc hs
  | wrPrep hl hc hs => exact clock hl hc hs
  | wrShift hl hc hs => exact clock hl hc hs
  | wrAck hl hc hs => exact clock hl hc hs

theorem case_unique {b line scl sda} {s t u : State} (ht : EventCase b line scl sda s t)
    (hu : EventCase b line scl sda s u) : t = u :=
  Host.Outcome.next.inj ((runEvent_of_case ht).symm.trans (runEvent_of_case hu))

/-- An event of one bus reads only its side. -/
theorem case_sameSide {b line scl sda} {s s' t t' : State} (h : EventCase b line scl sda s t)
    (h' : EventCase b line scl sda s' t') (ha : s.AddrOk) (hs : SameSide b s s') : SameSide b t t' := by
  obtain ⟨u, hu, hside⟩ := case_transfer h ha hs
  exact case_unique hu h' ▸ hside

/-! ## Two events of different buses -/

/-- What is still to come is on neither side. -/
theorem sameSide_withInputs (b : BusId) (s : State) (x : List Input) : SameSide b s { s with inputs := x } :=
  (SameSide.refl b s).withInputs s.inputs x

/-- A step whose next input is an event runs the event (R70). -/
theorem step_event {s : State} {b : BusId} {line : Line} {scl sda : Bool} {rest : List Input}
    (hi : s.inputs = .event b line scl sda :: rest) : step s = runEvent b line scl sda { s with inputs := rest } := by
  rw [step, hi]
  rfl

/-- Two events, each a case of its own, and the run of two steps that takes them. -/
theorem run_two_events (s : State) (b c : BusId) (lb lc : Line) (xb yb xc yc : Bool) (rest : List Input) :
    ∃ t u, EventCase b lb xb yb { s with inputs := .event c lc xc yc :: rest } t ∧
      EventCase c lc xc yc { t with inputs := rest } u ∧
      (t.inputs = .event c lc xc yc :: rest →
        Host.Core.run Sys2Proof.core 2 { s with inputs := .event b lb xb yb :: .event c lc xc yc :: rest } =
          .next u) := by
  obtain ⟨t, ht, hcase⟩ := runEvent_cases b lb xb yb { s with inputs := .event c lc xc yc :: rest }
  obtain ⟨u, hu, hcase'⟩ := runEvent_cases c lc xc yc { t with inputs := rest }
  refine ⟨t, u, hcase, hcase', fun hi => ?_⟩
  have first : step { s with inputs := .event b lb xb yb :: .event c lc xc yc :: rest } = .next t :=
    (step_event rfl).trans ht
  have second : step t = .next u := (step_event hi).trans hu
  exact (run_succ first).trans ((run_one t).trans second)

/-- The invariant for the second event: the first keeps it, and it does not speak of the inputs. -/
theorem addrOk_after {b line scl sda} {s t : State} {x rest : List Input}
    (h : EventCase b line scl sda { s with inputs := x } t) (ha : s.AddrOk) :
    State.AddrOk { t with inputs := rest } :=
  State.AddrOk.congr t _ rfl rfl (case_keeps_AddrOk h (State.AddrOk.congr s _ rfl rfl ha))

section
variable {b c : BusId} {lb lc : Line} {xb yb xc yc : Bool} {rest x y : List Input} {s tb tbc tc tcb : State}
variable (ha : s.AddrOk) (hb : EventCase b lb xb yb { s with inputs := x } tb)
  (hbc : EventCase c lc xc yc { tb with inputs := rest } tbc) (hc : EventCase c lc xc yc { s with inputs := y } tc)
  (hcb : EventCase b lb xb yb { tc with inputs := rest } tcb)
include ha hb hbc hc hcb

/-- On the side of one event's bus the two orders agree: the other event neither writes it nor reads it. -/
theorem two_orders_sameSide (hne : b ≠ c) : SameSide b tbc tcb := by
  have after : SameSide b tb tbc :=
    (sameSide_withInputs b tb rest).trans ((case_onlySide hbc (addrOk_after hb ha)).otherSide b hne)
  have before : SameSide b { s with inputs := x } { tc with inputs := rest } :=
    ((sameSide_withInputs b s x).symm.trans (sameSide_withInputs b s y)).trans
      (((case_onlySide hc ha).otherSide b hne).trans (sameSide_withInputs b tc rest))
  exact after.symm.trans (case_sameSide hb hcb ha before)

/-- What neither event reaches is the same in both orders. -/
theorem two_orders_frame : tcb.answer = tbc.answer ∧ tcb.inputs = tbc.inputs := by
  have hbo := case_onlySide hb ha
  have hco := case_onlySide hc ha
  have hbco := case_onlySide hbc (addrOk_after hb ha)
  have hcbo := case_onlySide hcb (addrOk_after hc ha)
  constructor
  · calc tcb.answer = tc.answer := hcbo.answer
      _ = s.answer := hco.answer
      _ = tb.answer := hbo.answer.symm
      _ = tbc.answer := hbco.answer.symm
  · rw [hcbo.inputs, hbco.inputs]

end

/-! ## The statements -/

/-- Settles O56, by the case of the event. -/
theorem decoderWritesOnlyItsOwnSide : Obligations.DecoderWritesOnlyItsOwnSide := by
  intro s t b line scl sda rest ha hi hstep
  exact case_onlySide (event_case hi hstep) ha

/-- Settles O57: the event selects the same case in both states, and each case respects agreement on the side. -/
theorem decoderReadsOnlyItsOwnSide : Obligations.DecoderReadsOnlyItsOwnSide := by
  intro s s' t t' b line scl sda rest rest' ha hi hi' hs ht ht'
  exact case_sameSide (event_case hi ht) (event_case hi' ht') ha (hs.withInputs rest rest')

/-- Settles O58: on each side the two orders agree, and so they agree everywhere. -/
theorem decodersCommute : Obligations.DecodersCommute := by
  intro s l0 l1 c0 d0 c1 d1 rest ha
  obtain ⟨t0, t01, h0, h01, run01⟩ := run_two_events s 0 1 l0 l1 c0 d0 c1 d1 rest
  obtain ⟨t1, t10, h1, h10, run10⟩ := run_two_events s 1 0 l1 l0 c1 d1 c0 d0 rest
  rw [run01 (case_onlySide h0 ha).inputs, run10 (case_onlySide h1 ha).inputs]
  obtain ⟨hans, hin⟩ := two_orders_frame ha h0 h01 h1 h10
  refine congrArg _ (eq_of_sides (fun b => ?_) hans hin).symm
  match b with
  | 0 => exact two_orders_sameSide ha h0 h01 h1 h10 (by decide)
  | 1 => exact (two_orders_sameSide ha h1 h10 h0 h01 (by decide)).symm

end Sys2Proof.Machine
end

section
/-! PROOFS. The statements about steps (spec/20_memory.md R70, spec/40_bus_decoder.md R120 to R126): the decoded
operation is the one that runs, every operation and every hardware input completes, and reset sets every field. -/

namespace Sys2Proof.Machine

/-! ## The selection and the decoder agree (R100, R125) -/

/-- A state whose clock row takes either level has no clock operation of its own (R126). -/
theorem inert_of_clockColumn_none {st : BusState} (h : clockColumn st = none) : st = .idle ∨ st = .waitStop := by
  cases st <;> simp_all [clockColumn]

/-- Both inert clock rows change nothing. -/
theorem exec_clockOp_inert {st : BusState} (h : st = .idle ∨ st = .waitStop) (b : BusId) (scl sda : Bool) (s : State) :
    exec (clockOp b st scl sda) s = .next s := by
  rcases h with rfl | rfl <;> rfl

section
variable {s : State} {b : BusId} {scl sda : Bool} {rest : List Input}

/-- With R48's table, a clock event runs the row its dispatch word is of. In the two inert states the row may be the
other one of two that change nothing (assumption log 14). -/
theorem step_clock_row (hi : s.inputs = .event b .clock scl sda :: rest) (hp : (s.busAt b).pinsOk = true) :
    step s = exec (clockRow b (s.busAt b).state scl sda) { s with inputs := rest } := by
  have hlevel (level : Bool) (h : clockColumn (s.busAt b).state = some level) : armedLevel (s.busAt b).sclArm = level :=
    armedLevel_of_clockColumn hp h
  by_cases hc : scl = armedLevel (s.busAt b).sclArm
  · have hrow : clockColumn (s.busAt b).state ≠ some (!scl) := fun h => by
      have hx := hc.trans (hlevel _ h)
      cases scl <;> cases hx
    rw [step_clock_of_eq_armedLevel hi hc, clockRow, if_neg hrow]
  · rw [step_clock_of_ne_armedLevel hi hc, clockRow]
    split
    · rfl
    · refine (exec_clockOp_inert (inert_of_clockColumn_none ?_) b scl sda _).symm
      cases hcol : clockColumn (s.busAt b).state with
      | none => rfl
      | some level =>
        have hx := hlevel level hcol
        cases scl <;> cases level <;> simp_all

/-- A monitored data-line event runs the operation its levels and the state select (R122 to R124). -/
theorem step_data_of_monitored (hi : s.inputs = .event b .data scl sda :: rest) (hm : (s.busAt b).sdaMon ≠ .off) :
    step s = exec (dataOp b (s.busAt b).state scl sda) { s with inputs := rest } :=
  step_of_select hi (if_pos ((monitored_iff _).2 hm))

end

/-! ## Inputs -/

/-- An event takes none of the inputs still to come. -/
theorem case_inputs {b line scl sda} {s t : State} (h : EventCase b line scl sda s t) : t.inputs = s.inputs := by
  cases h
  case stop => rw [stopOp_eq]; exact (tellStop_frame b s).1.inputs
  case rdPrep => rw [rdPrepOp_eq]; exact (onByteRequested_frame b _ s).1.inputs
  case wrAck => rw [wrAckOp_eq]; exact (onByteWritten_frame b _ _ s).1.inputs
  all_goals rfl

/-- A call the hardware has is a port operation. -/
theorem port_of_fromHardware {frame : List Byte} (h : (Input.call frame).fromHardware = true) :
    ∃ i, decode frame = .ok i ∧ i.format = .port := by
  cases hd : decode frame with
  | ok i => exact ⟨i, rfl, by simpa [Input.fromHardware, hd] using h⟩
  | bad e => simp [Input.fromHardware, hd] at h

theorem runInput_completes {x : Input} (hx : x.fromHardware = true) (s : State) :
    ∃ t, runInput x s = .next t ∧ t.inputs = s.inputs := by
  cases x with
  | event b line scl sda =>
    obtain ⟨t, ht, hcase⟩ := runEvent_cases b line scl sda s
    exact ⟨t, ht, case_inputs hcase⟩
  | call frame =>
    obtain ⟨i, hi, hport⟩ := port_of_fromHardware hx
    obtain ⟨t, ht, _, _, hin, _⟩ := exec_port hport s
    exact ⟨t, by rw [runInput, runCall, hi]; exact ht, hin⟩
  | reset => exact ⟨s.resetBlock, rfl, rfl⟩

/-! ## The statements -/

/-- Settles O4: the frame of an event decodes to the row the event runs, by the line; a call is decoded as it is. -/
theorem stepRunsTheDecodedOperation : Obligations.StepRunsTheDecodedOperation := by
  constructor
  · intro s b line scl sda i rest hi hp hm hdec
    cases line with
    | clock =>
      rw [decode_clockFrame] at hdec
      cases hdec
      exact step_clock_row hi hp
    | data =>
      rw [decode_dataFrame] at hdec
      cases hdec
      exact step_data_of_monitored hi (hm rfl)
  · intro s frame i rest hi hdec
    have hcall : runCall frame { s with inputs := rest } = exec i { s with inputs := rest } := by rw [runCall, hdec]
    rw [step, hi]
    exact hcall

/-- Settles O6, by monitoring, then by the levels and the state. -/
theorem dataEventsSelectStopStartOrNothing : Obligations.DataEventsSelectStopStartOrNothing := by
  intro s b scl sda rest hi
  refine ⟨fun hoff => ?_, fun hm => ⟨?_, ?_, ?_, fun h => ?_⟩⟩
  · have hm : monitored (State.busAt { s with inputs := rest } b).sdaMon = false := congrArg monitored hoff
    rw [step_event hi]
    exact runEvent_data_inert (.inl hm)
  · rintro rfl rfl
    exact step_data_of_monitored hi hm
  · rintro rfl rfl hs
    rw [step_data_of_monitored hi hm, hs]
    rfl
  · rintro rfl rfl hs
    rw [step_data_of_monitored hi hm, hs]
    rfl
  · rw [step_event hi]
    exact runEvent_data_inert (.inr h)

/-- Settles O7: each of the 52 meanings is written as a next state. -/
theorem everyOperationCompletes : Obligations.EveryOperationCompletes := by
  intro i s
  cases i <;> exact ⟨_, rfl⟩

/-- Settles O8, by the kind of the input. -/
theorem hardwareInputsCompleteOneByOne : Obligations.HardwareInputsCompleteOneByOne := by
  intro s hn
  have idle (h : s.inputs = []) : step s = .next s := by rw [step, h]
  refine ⟨idle, ?_⟩
  cases hi : s.inputs with
  | nil => exact ⟨s, idle hi, hi⟩
  | cons x rest =>
    obtain ⟨t, ht, hin⟩ := runInput_completes (hn x rest hi) { s with inputs := rest }
    refine ⟨t, ?_, hin⟩
    rw [step, hi]
    exact ht

/-- Settles O9: reset takes the bus contexts, the device contexts and the telemetry of the reset state. -/
theorem resetSetsEveryField : Obligations.ResetSetsEveryField := by
  intro s rest hi
  have hstep : step s = .next (State.resetBlock { s with inputs := rest }) := by
    rw [step, hi]
    rfl
  refine ⟨_, hstep, resetBlock_busAt _, resetBlock_devAt _, fun i => ?_, rfl, rfl, rfl, rfl, rfl⟩
  simp [State.resetBlock, State.reset, Telemetry.reset, State.enabledAt, State.requestedAt, State.actualAt]

end Sys2Proof.Machine
end

section
/-! PROOFS. The statements about the operations of the bus decoder (spec/40_bus_decoder.md R122 to R132): stop and
start, the address phase bit by bit and as a whole byte, and the beginning and the end of a byte read. -/

namespace Sys2Proof.Machine

/-! ## A stop (R122) -/

/-- Telling a stop sets the device the latched address routes to, if there is one, to `IDLE`, and no other. -/
theorem tellStop_devAt (b : BusId) (s : State) (d : DevId) :
    (tellStop b s).devAt d =
      if (s.busAt b).maddrValid = true ∧ route b (s.busAt b).maddr = .dev d then { s.devAt d with dstate := .idle }
      else s.devAt d := by
  cases hv : (s.busAt b).maddrValid
  · simp [tellStop, hv]
  cases hr : route b (s.busAt b).maddr with
  | aux => simp [tellStop, hv, onStop_of_aux hr]
  | none => simp [tellStop, hv, onStop_of_none hr]
  | dev e =>
    simp only [tellStop, hv, if_true, onStop_of_dev hr, devStop, true_and, Route.dev.injEq]
    by_cases he : e = d
    · subst he
      rw [devAt_modDev_self, if_pos rfl]
    · rw [devAt_modDev_of_ne _ _ (Ne.symm he), if_neg he]

/-! ## The address match in numbers (R128) -/

theorem fam_range_iff : ∀ a : Byte,
    (decide (Config.devBase ≤ addr7 a) && decide (addr7 a ≤ Config.devBase + 3#7)) = true ↔
      0xA0 ≤ a.toNat ∧ a.toNat ≤ 0xA7 := by decide

theorem matchAddr_iff_range (a : Byte) : matchAddr (addr7 a) = true ↔
    (0xA0 ≤ a.toNat ∧ a.toNat ≤ 0xA7) ∨ a.extractLsb' 1 7 = Config.auxAddr := by
  rw [matchAddr, Bool.or_eq_true, fam_range_iff, beq_iff_eq, addr7]

/-! ## A whole address byte -/

/-- A byte that matches, received and acknowledged (R127 to R129). -/
theorem addrAckCtx_addressReceived {a : Byte} (hm : matchAddr (addr7 a) = true) (B : BusCtx) :
    addrAckCtx (addressReceived a B) = { B with
      addr := a, bitcnt := 8, maddr := a, maddrValid := true, sclArm := .fall, sdaDir := .out, sdaDrv := false,
      state := if rwBit a then .readPrepare else .writePrepare } := by
  rw [addressReceived, addressDone, if_pos hm]
  rfl

/-- A byte that does not match, received (R127). -/
theorem addressReceived_of_mismatch {a : Byte} (hm : matchAddr (addr7 a) = false) (B : BusCtx) :
    addressReceived a B = { B with addr := a, bitcnt := 8, state := .waitStop } := by
  rw [addressReceived, addressDone, if_neg (Bool.eq_false_iff.1 hm)]
  rfl

/-- The row of an address byte that matches is the byte received and acknowledged. -/
theorem exec_addr8Row_matched (b : BusId) {a : Byte} (hm : matchAddr (addr7 a) = true) (s : State) :
    ∃ t, exec (addr8Row b a) s = .next t ∧ OnlyBus b s t ∧
      t.busAt b = { s.busAt b with
        addr := a, bitcnt := 8, maddr := a, maddrValid := true, sclArm := .fall, sdaDir := .out, sdaDrv := false,
        state := if rwBit a then .readPrepare else .writePrepare } := by
  refine ⟨_, addr8Row_eq b a s, onlyBus_modBus s b _, ?_⟩
  rw [busAt_modBus_self, hm, if_pos rfl, addrAckCtx_addressReceived hm]

theorem fam_byte_rwBit : ∀ oo : BitVec 2,
    rwBit (0b10100#5 ++ oo ++ 0#1) = false ∧ rwBit (0b10100#5 ++ oo ++ 1#1) = true := by decide

theorem rwBit_addrByte : ∀ (a : DevAddr) (rw : Bool), rwBit (addrByte a rw) = rw := by decide

/-! ## The statements -/

/-- Settles O11: a stop is one call of the device layer and one update of the bus context. -/
theorem stopReturnsToIdleAndTellsTheMatchedDevice : Obligations.StopReturnsToIdleAndTellsTheMatchedDevice := by
  intro b st s
  obtain ⟨hself, hother⟩ := busAt_stop b s
  obtain ⟨hframe, htel, hdraws⟩ := tellStop_frame b s
  refine ⟨stopOp b s, rfl, hself, hother, fun d => ?_, ?_⟩
  · rw [stopOp_eq, modBus_devAt, tellStop_devAt]
  · rw [stopOp_eq]
    exact ⟨htel, hframe.inputs, hframe.answer, hdraws⟩

/-- Settles O12: both rows are one update of the bus context. -/
theorem startBeginsTheAddressPhase : Obligations.StartBeginsTheAddressPhase := by
  rintro b s _ (rfl | rfl)
  · exact ⟨s.modBus b startCtx, rfl, onlyBus_modBus s b _, busAt_modBus_self s b _⟩
  · exact ⟨s.modBus b startCtx, rfl, onlyBus_modBus s b _, busAt_modBus_self s b _⟩

/-- Settles O13: the five meanings are the state itself. -/
theorem inertOperationsChangeNothing : Obligations.InertOperationsChangeNothing := by
  intro b st scl sda s
  exact ⟨rfl, rfl, rfl, rfl, rfl⟩

/-- Settles O14, by the branch the bit takes. -/
theorem addressBitsShiftInAndTheEighthDecides : Obligations.AddressBitsShiftInAndTheEighthDecides := by
  intro b sda s
  refine ⟨s.modBus b (addrShiftCtx sda), rfl, onlyBus_modBus s b _, ?_⟩
  rintro B a rfl rfl
  rw [busAt_modBus_self]
  refine ⟨fun h => ?_, fun h hm => ?_, fun h hm => ?_⟩
  · rw [addrShiftCtx_of_ne sda h]
    rfl
  · rw [addrShiftCtx_of_match sda h ((matchAddr_iff_range _).2 hm), ← h]
    rfl
  · rw [addrShiftCtx_of_mismatch sda h (Bool.eq_false_iff.2 (mt (matchAddr_iff_range _).1 hm)), ← h]
    rfl

/-- Settles O15: ADDR.ACK is one update of the bus context. -/
theorem addressAcknowledgeDrivesLowAndBranches : Obligations.AddressAcknowledgeDrivesLowAndBranches := by
  intro b sda s
  exact ⟨s.modBus b addrAckCtx, rfl, onlyBus_modBus s b _, busAt_modBus_self s b _⟩

/-- Settles O16: RD.PREP is one call of the device layer and one update of the bus context. -/
theorem readPrepareFetchesAByteAndDrivesItsFirstBit : Obligations.ReadPrepareFetchesAByteAndDrivesItsFirstBit := by
  intro b sda s r u hr
  obtain ⟨hself, hother⟩ := busAt_rdPrep b s
  obtain ⟨hframe, htel⟩ := onByteRequested_frame b (s.busAt b).addr s
  rw [hr] at hself hframe htel
  refine ⟨rdPrepOp b s, rfl, hself, hother, ?_⟩
  rw [rdPrepOp_eq, hr]
  exact ⟨rfl, htel, rfl, hframe.inputs, hframe.answer⟩

/-- Settles O18, by the mark. -/
theorem readAcknowledgeReleasesThePinAndBranchesOnLast :
    Obligations.ReadAcknowledgeReleasesThePinAndBranchesOnLast := by
  intro b sda s
  refine ⟨s.modBus b rdAckCtx, rfl, onlyBus_modBus s b _, fun h => ?_, fun h => ?_⟩
  · rw [busAt_modBus_self, rdAckCtx, if_pos h]
  · rw [busAt_modBus_self, rdAckCtx, if_neg (Bool.eq_false_iff.1 h)]

/-- Settles O22: each of the five rows is the row of its byte. -/
theorem addressBytesComeToTheirTabledOutcomes : Obligations.AddressBytesComeToTheirTabledOutcomes := by
  intro b s
  constructor
  · rintro i a st (⟨oo, rfl, rfl, rfl⟩ | ⟨oo, rfl, rfl, rfl⟩ | ⟨rfl, rfl, rfl⟩ | ⟨rfl, rfl, rfl⟩)
    · have h := exec_addr8Row_matched b ((matchAddr_iff_row _).2 (.inl (fam_byte_facts oo).1)) s
      rw [addr8Row_famW, (fam_byte_rwBit oo).1] at h
      exact h
    · have h := exec_addr8Row_matched b ((matchAddr_iff_row _).2 (.inr (.inl (fam_byte_facts oo).2.2.1))) s
      rw [addr8Row_famR, (fam_byte_rwBit oo).2] at h
      exact h
    · have h := exec_addr8Row_matched b ((matchAddr_iff_row _).2 (.inr (.inr (.inl rfl)))) s
      rw [addr8Row_auxW, rwBit_addrByte] at h
      exact h
    · have h := exec_addr8Row_matched b ((matchAddr_iff_row _).2 (.inr (.inr (.inr rfl)))) s
      rw [addr8Row_auxR, rwBit_addrByte] at h
      exact h
  · intro a hwf
    have hm : matchAddr (addr7 a) = false := by simpa only [Instr.wf, Bool.not_eq_true'] using hwf
    refine ⟨s.modBus b (addressReceived a), rfl, onlyBus_modBus s b _, ?_⟩
    rw [busAt_modBus_self, addressReceived_of_mismatch hm]

end Sys2Proof.Machine
end

section
/-! PROOFS. The statements about bytes bit by bit (spec/30_encoding.md R61, R96): a run of clock events of one state is
the fold of the state's operation over the sampled levels, and eight shifted bits are the byte. -/

namespace Sys2Proof.Machine

/-! ## Runs of clock events in one state -/

/-- An operation of the bus context, applied for each sampled level in turn. -/
def foldBits (g : Bool → BusCtx → BusCtx) (vs : List Bool) (B : BusCtx) : BusCtx := vs.foldl (fun C v => g v C) B

/-- Clock events of one bus at one level, each with its data level. -/
def clockEvents (b : BusId) (level : Bool) (vs : List Bool) : List Input := vs.map fun v => .event b .clock level v

/-- The bus context is in a state and armed for a level. -/
def Ready (st : BusState) (level : Bool) (B : BusCtx) : Prop := B.state = st ∧ level = armedLevel B.sclArm

/-- Naming the inputs a state has changes nothing. -/
theorem withInputs_self {s : State} {xs : List Input} (h : s.inputs = xs) : { s with inputs := xs } = s := by
  subst h
  rfl

/-- One clock event whose operation only updates the bus context. -/
theorem step_clock_ready {s : State} {b : BusId} {st : BusState} {level v : Bool} {rest : List Input}
    {g : BusCtx → BusCtx} (hop : ∀ u, exec (clockOp b st level v) u = .next (u.modBus b g))
    (hi : s.inputs = .event b .clock level v :: rest) (hr : Ready st level (s.busAt b)) :
    step s = .next ({ s with inputs := rest }.modBus b g) :=
  (step_clock_selects hi hr.1 hr.2).trans (hop _)

/-- A run of clock events in one state, as long as the state and the arming last, is the fold of its operation. -/
theorem run_clockEvents {b : BusId} {st : BusState} {level : Bool} {g : Bool → BusCtx → BusCtx}
    (hop : ∀ v u, exec (clockOp b st level v) u = .next (u.modBus b (g v))) {rest : List Input} {vs : List Bool}
    {s : State} (hi : s.inputs = clockEvents b level vs ++ rest)
    (hready : ∀ k, k < vs.length → Ready st level (foldBits g (vs.take k) (s.busAt b))) :
    Host.Core.run Sys2Proof.core vs.length s = .next ({ s with inputs := rest }.modBus b (foldBits g vs)) := by
  induction vs generalizing s with
  | nil => exact congrArg _ ((modBus_id _ b).trans (withInputs_self hi)).symm
  | cons v vs ih =>
    have hstep := step_clock_ready (hop v) hi (hready 0 (Nat.succ_pos _))
    refine (run_succ hstep).trans ((ih rfl fun k hk => ?_).trans ?_)
    · rw [busAt_modBus_self]
      exact hready (k + 1) (Nat.succ_lt_succ hk)
    · exact congrArg _ (modBus_modBus { s with inputs := rest } b (g v) (foldBits g vs))

/-- Two runs in a row. -/
theorem run_add {m n : Nat} {s t : State} (h : Host.Core.run Sys2Proof.core m s = .next t) :
    Host.Core.run Sys2Proof.core (m + n) s = Host.Core.run Sys2Proof.core n t := by
  induction m generalizing s with
  | zero => cases h; rw [Nat.zero_add]
  | succ m ih =>
    rw [Nat.add_right_comm]
    cases hs : step s with
    | next u => exact (run_succ hs).trans (ih ((run_succ hs).symm.trans h))
    | fault r => cases r
    | refused r =>
      have hs' : Sys2Proof.core.step s = .refused r := hs
      simp [Host.Core.run, hs'] at h

/-! ## Eight bits shifted in (R96) -/

/-- Bits shifted into an accumulator in turn. -/
def shiftBits (vs : List Bool) (acc : Byte) : Byte := vs.foldl shiftIn acc

/-- The eight bits of a byte, most significant first, are the byte. -/
theorem shiftBits_bitsOf (a acc : Byte) : shiftBits (bitsOf a) acc = a := shiftIn_byte a acc

theorem foldBits_cons (g : Bool → BusCtx → BusCtx) (v : Bool) (vs : List Bool) (B : BusCtx) :
    foldBits g (v :: vs) B = foldBits g vs (g v B) := rfl

theorem foldBits_concat (g : Bool → BusCtx → BusCtx) (vs : List Bool) (v : Bool) (B : BusCtx) :
    foldBits g (vs ++ [v]) B = g v (foldBits g vs B) := by
  rw [foldBits, List.foldl_append]
  rfl

/-- The last bit of a byte comes after the seven others. -/
theorem bitsOf_eq_concat (a : Byte) : bitsOf a = (bitsOf a).take 7 ++ [a.getLsbD 0] := rfl

theorem count_succ (n : BitVec 4) (k : Nat) : n + 1 + BitVec.ofNat 4 k = n + BitVec.ofNat 4 (k + 1) := by
  rw [BitVec.add_assoc, Nat.add_comm k 1, BitVec.ofNat_add]
  rfl

theorem foldBits_shiftAddrBit (vs : List Bool) (B : BusCtx) : foldBits shiftAddrBit vs B =
    { B with addr := shiftBits vs B.addr, bitcnt := B.bitcnt + BitVec.ofNat 4 vs.length } := by
  induction vs generalizing B with
  | nil => simp [foldBits, shiftBits]
  | cons v vs ih =>
    rw [foldBits_cons, ih, List.length_cons, ← count_succ]
    rfl

theorem foldBits_shiftDataBit (vs : List Bool) (B : BusCtx) : foldBits shiftDataBit vs B =
    { B with data := shiftBits vs B.data, bitcnt := B.bitcnt + BitVec.ofNat 4 vs.length } := by
  induction vs generalizing B with
  | nil => simp [foldBits, shiftBits]
  | cons v vs ih =>
    rw [foldBits_cons, ih, List.length_cons, ← count_succ]
    rfl

/-- Before the eighth bit, an operation that only shifts then is the shift. -/
theorem foldBits_before_eighth {g shift : Bool → BusCtx → BusCtx}
    (hg : ∀ v B, B.bitcnt + 1 ≠ 8 → g v B = shift v B) (hcount : ∀ v B, (shift v B).bitcnt = B.bitcnt + 1)
    (vs : List Bool) (B : BusCtx) (h : B.bitcnt.toNat + vs.length < 8) : foldBits g vs B = foldBits shift vs B := by
  induction vs generalizing B with
  | nil => rfl
  | cons v vs ih =>
    rw [List.length_cons] at h
    have hnext := nextBit_toNat (n := B.bitcnt) (by omega)
    have hne : B.bitcnt + 1 ≠ 8 := fun e => by
      rw [e] at hnext
      have h8 : (8 : BitVec 4).toNat = 8 := rfl
      omega
    rw [foldBits_cons, foldBits_cons, hg v B hne]
    exact ih _ (by rw [hcount, hnext]; omega)

/-- The bus context with all eight bits of a data byte taken, before its acknowledge (R134). -/
def dataReceived (v : Byte) (B : BusCtx) : BusCtx :=
  { B with data := v, bitcnt := 8, state := .writeAck, sclArm := .fall }

section
variable {B : BusCtx} (h0 : B.bitcnt = 0)
include h0

theorem count_before_eighth (a : Byte) {k : Nat} (hk : k < 8) :
    B.bitcnt.toNat + ((bitsOf a).take k).length < 8 := by
  have hlen : ((bitsOf a).take k).length ≤ k := List.length_take_le ..
  have hz : B.bitcnt.toNat = 0 := by rw [h0]; rfl
  omega

/-- Address bits before the eighth are shifted in (R127). -/
theorem foldBits_addrShiftCtx (a : Byte) {k : Nat} (hk : k < 8) :
    foldBits addrShiftCtx ((bitsOf a).take k) B = foldBits shiftAddrBit ((bitsOf a).take k) B :=
  foldBits_before_eighth (fun v _ h => addrShiftCtx_of_ne v h) (fun _ _ => rfl) _ B (count_before_eighth h0 a hk)

/-- Data bits before the eighth are shifted in (R134). -/
theorem foldBits_wrShiftCtx (a : Byte) {k : Nat} (hk : k < 8) :
    foldBits wrShiftCtx ((bitsOf a).take k) B = foldBits shiftDataBit ((bitsOf a).take k) B :=
  foldBits_before_eighth (fun v _ h => wrShiftCtx_of_ne v h) (fun _ _ => rfl) _ B (count_before_eighth h0 a hk)

/-- The eight bits of an address byte are the byte received (R127, R128). -/
theorem foldBits_address_byte (a : Byte) : foldBits addrShiftCtx (bitsOf a) B = addressReceived a B := by
  have hlast : (foldBits shiftAddrBit ((bitsOf a).take 7) B).bitcnt + 1 = 8 := by
    rw [foldBits_shiftAddrBit, h0]
    rfl
  rw [bitsOf_eq_concat, foldBits_concat, foldBits_addrShiftCtx h0 a (by decide), addrShiftCtx,
    if_pos ((byteDone_nextBit_iff _).2 hlast), ← foldBits_concat shiftAddrBit, ← bitsOf_eq_concat,
    foldBits_shiftAddrBit, shiftBits_bitsOf, h0]
  rfl

/-- The eight bits of a data byte are the byte received (R134). -/
theorem foldBits_data_byte (v : Byte) : foldBits wrShiftCtx (bitsOf v) B = dataReceived v B := by
  have hlast : (foldBits shiftDataBit ((bitsOf v).take 7) B).bitcnt + 1 = 8 := by
    rw [foldBits_shiftDataBit, h0]
    rfl
  rw [bitsOf_eq_concat, foldBits_concat, foldBits_wrShiftCtx h0 v (by decide), wrShiftCtx_of_eq _ hlast,
    ← foldBits_concat shiftDataBit, ← bitsOf_eq_concat, foldBits_shiftDataBit, shiftBits_bitsOf, h0]
  rfl

end

/-! ## The two phases of eight bits -/

section
variable {s : State} {b : BusId} {rest : List Input}
variable (h0 : (s.busAt b).bitcnt = 0) (harm : (s.busAt b).sclArm = .rise)
include h0 harm

/-- Eight clock events in `ADDRESS` receive their byte. -/
theorem run_address_byte (hs : (s.busAt b).state = .address) (a : Byte)
    (hi : s.inputs = clockEvents b true (bitsOf a) ++ rest) :
    Host.Core.run Sys2Proof.core 8 s = .next ({ s with inputs := rest }.modBus b (addressReceived a)) := by
  refine (run_clockEvents (st := .address) (g := addrShiftCtx) (fun _ _ => rfl) hi fun k hk => ?_).trans ?_
  · rw [foldBits_addrShiftCtx h0 a hk, foldBits_shiftAddrBit]
    exact ⟨hs, by rw [harm]; rfl⟩
  · exact congrArg _ (modBus_congr (foldBits_address_byte h0 a))

/-- Eight clock events in `WRITE` receive their byte. -/
theorem run_data_byte (hs : (s.busAt b).state = .write) (v : Byte)
    (hi : s.inputs = clockEvents b true (bitsOf v) ++ rest) :
    Host.Core.run Sys2Proof.core 8 s = .next ({ s with inputs := rest }.modBus b (dataReceived v)) := by
  refine (run_clockEvents (st := .write) (g := wrShiftCtx) (fun _ _ => rfl) hi fun k hk => ?_).trans ?_
  · rw [foldBits_wrShiftCtx h0 v hk, foldBits_shiftDataBit]
    exact ⟨hs, by rw [harm]; rfl⟩
  · exact congrArg _ (modBus_congr (foldBits_data_byte h0 v))

end

/-- A falling clock edge after an address byte: acknowledged if the byte matches, else nothing (R126, R129). -/
theorem step_after_address_byte (s : State) (b : BusId) (a : Byte) (x : Bool) (rest : List Input) :
    step ({ s with inputs := .event b .clock false x :: rest }.modBus b (addressReceived a)) =
      exec (addr8Row b a) { s with inputs := rest } := by
  rw [addr8Row_eq]
  cases hm : matchAddr (addr7 a)
  · have hidle : (addressReceived a (s.busAt b)).state = .waitStop := by rw [addressReceived_of_mismatch hm]
    refine (step_event rfl).trans (runEvent_clock_inert (.inr (.inr ?_)))
    exact (congrArg BusCtx.state (busAt_modBus_self _ b _)).trans hidle
  · have hready : Ready .addressAck false (addressReceived a (s.busAt b)) := by
      rw [addressReceived, addressDone, if_pos hm]
      exact ⟨rfl, rfl⟩
    have hack : ∀ u, exec (clockOp b (addressReceived a (s.busAt b)).state false x) u = .next (u.modBus b addrAckCtx) :=
      fun u => by rw [hready.1]; rfl
    have hstep : step ({ s with inputs := .event b .clock false x :: rest }.modBus b (addressReceived a)) =
        .next ({ s with inputs := rest }.modBus b fun B => addrAckCtx (addressReceived a B)) :=
      step_clock_mod (s := s) hready.2 hack
    exact hstep

/-- The acknowledge of a received data byte hands it to the device layer, which sees neither the bus context nor the
inputs to come (R135). -/
theorem wrAckOp_dataReceived (s : State) (b : BusId) (v : Byte) (rest : List Input) :
    wrAckOp b ({ s with inputs := rest }.modBus b (dataReceived v)) =
      { onByteWritten b (s.busAt b).addr v s with inputs := rest }.modBus b fun B =>
        { dataReceived v B with sdaDir := .out, sdaDrv := false, state := .writePrepare } := by
  have haddr : (dataReceived v (State.busAt { s with inputs := rest } b)).addr = (s.busAt b).addr := rfl
  have hdata : (dataReceived v (State.busAt { s with inputs := rest } b)).data = v := rfl
  rw [wrAckOp_eq, deliverByte, busAt_modBus_self, haddr, hdata, onByteWritten_modBus, modBus_modBus,
    onByteWritten_withInputs]

/-- A falling clock edge after a data byte acknowledges it. -/
theorem step_after_data_byte (s : State) (b : BusId) (v : Byte) (x : Bool) (rest : List Input) :
    step ({ s with inputs := .event b .clock false x :: rest }.modBus b (dataReceived v)) =
      .next (wrAckOp b ({ s with inputs := rest }.modBus b (dataReceived v))) := by
  have hb : State.busAt ({ s with inputs := .event b .clock false x :: rest }.modBus b (dataReceived v)) b =
      dataReceived v (s.busAt b) := busAt_modBus_self _ b _
  exact step_clock_selects (st := .writeAck) rfl (by rw [hb]; rfl) (by rw [hb]; rfl)

/-! ## A byte sent (R130, R131) -/

/-- The bus context with the first `n` bits of a byte sent, most significant first: the pin carries the last of them. -/
def sentBits (x : Byte) (n : Nat) (B : BusCtx) : BusCtx :=
  { B with sdaDrv := x.getLsbD (8 - n), data := x <<< n, bitcnt := BitVec.ofNat 4 n,
           state := if n = 8 then .readAck else .read }

theorem shiftOut_eq_shiftLeft : ∀ x : Byte, shiftOut x = x <<< 1 := by decide

theorem rdBitCtx_sentBits (x : Byte) {n : Nat} (hn : n < 8) (B : BusCtx) :
    rdBitCtx (sentBits x n B) = sentBits x (n + 1) B := by
  have hdata : shiftOut (x <<< n) = x <<< (n + 1) := by rw [shiftOut_eq_shiftLeft, ← BitVec.shiftLeft_add]
  have hbit : unsentBit (x <<< n) = x.getLsbD (8 - (n + 1)) := by
    have hlt : ¬7 < n := by omega
    rw [unsentBit, BitVec.getLsbD_shiftLeft, show 8 - (n + 1) = 7 - n by omega]
    simp [hlt]
  have hcount : nextBit (BitVec.ofNat 4 n) = BitVec.ofNat 4 (n + 1) := (BitVec.ofNat_add n 1).symm
  have hdone : byteDone (BitVec.ofNat 4 (n + 1)) = decide (n + 1 = 8) := by
    interval_cases n <;> rfl
  have hread : (sentBits x n B).state = .read := if_neg (by omega)
  simp only [rdBitCtx, hread]
  simp only [sentBits, hdata, hbit, hcount, hdone, decide_eq_true_eq]

theorem foldBits_rdBitCtx (x : Byte) (B : BusCtx) (vs : List Bool) (n : Nat) (h : n + vs.length ≤ 8) :
    foldBits (fun _ => rdBitCtx) vs (sentBits x n B) = sentBits x (n + vs.length) B := by
  induction vs generalizing n with
  | nil => rfl
  | cons v vs ih =>
    rw [List.length_cons] at h
    rw [foldBits_cons, rdBitCtx_sentBits x (by omega), ih (n + 1) (by omega), List.length_cons,
      Nat.add_right_comm, Nat.add_assoc]

/-- The first bit of a byte just loaded. -/
theorem rdBitCtx_rdLoadCtx (r : Reply) (B : BusCtx) :
    rdBitCtx (rdLoadCtx r B) = sentBits r.byte 1 (rdLoadCtx r B) := by
  simp only [rdBitCtx, sentBits, rdLoadCtx, shiftOut_eq_shiftLeft]
  rfl

/-- RD.PREP sends the first bit of the byte it fetches, whatever inputs are to come. -/
theorem busAt_rdPrep_sentBits {b : BusId} {s : State} {r : Reply} (hr : (onByteRequested b (s.busAt b).addr s).1 = r)
    (xs : List Input) :
    (rdPrepOp b { s with inputs := xs }).busAt b = sentBits r.byte 1 (rdLoadCtx r (s.busAt b)) := by
  have h := (busAt_rdPrep b { s with inputs := xs }).1
  rw [onByteRequested_withInputs, rdBitCtx_rdLoadCtx] at h
  rw [← hr]
  exact h

/-- Clock events after the first bit of a byte send one bit each, until all eight are sent. -/
theorem run_sent_bits {s : State} {b : BusId} {x : Byte} {C : BusCtx} {vs : List Bool} {rest : List Input}
    (hb : s.busAt b = sentBits x 1 C) (harm : C.sclArm = .fall) (h : vs.length < 8)
    (hi : s.inputs = clockEvents b false vs ++ rest) :
    ∃ t, Host.Core.run Sys2Proof.core vs.length s = .next t ∧ t.busAt b = sentBits x (1 + vs.length) C := by
  refine ⟨_, run_clockEvents (st := .read) (g := fun _ => rdBitCtx) (fun _ _ => rfl) hi fun k hk => ?_, ?_⟩
  · have hlen : (vs.take k).length = k := List.length_take_of_le hk.le
    rw [hb, foldBits_rdBitCtx x C _ 1 (by omega), hlen]
    exact ⟨if_neg (by omega), by rw [sentBits, harm]; rfl⟩
  · rw [busAt_modBus_self, show State.busAt { s with inputs := rest } b = s.busAt b from rfl, hb,
      foldBits_rdBitCtx x C vs 1 (by omega)]

/-! ## The statements -/

/-- Settles O23: eight bits receive the byte, and the falling edge acknowledges it or not. -/
theorem bitwiseAddressPhaseIsItsTableRow : Obligations.BitwiseAddressPhaseIsItsTableRow := by
  intro s b a x rest hs h0 harm hi
  have hrun := run_address_byte h0 harm hs a hi
  exact ((run_add (n := 1) hrun).trans (run_one _)).trans (step_after_address_byte s b a x rest)

/-- Settles O24: eight bits receive the byte, and the falling edge hands it to the device layer. -/
theorem eightDataBitsDeliverTheByte : Obligations.EightDataBitsDeliverTheByte := by
  rintro s _ b v x rest hs h0 harm hi rfl
  have hrun := run_data_byte h0 harm hs v hi
  obtain ⟨hframe, hdraws⟩ := onByteWritten_frame b (s.busAt b).addr v s
  refine ⟨_, ((run_add (n := 1) hrun).trans (run_one _)).trans (step_after_data_byte s b v x rest), ?_⟩
  rw [wrAckOp_dataReceived]
  refine ⟨?_, fun b' hb' => ?_, rfl, rfl, rfl, hframe.answer, hdraws⟩
  · have hb : State.busAt { onByteWritten b (s.busAt b).addr v s with inputs := rest } b = s.busAt b := hframe.busAt b
    rw [busAt_modBus_self, hb]
    rfl
  · exact (busAt_modBus_of_ne _ _ hb').trans (hframe.busAt b')

/-- Settles O25: RD.PREP sends the first bit, and each falling edge after it one more. -/
theorem readByteIsSentMostSignificantBitFirst : Obligations.ReadByteIsSentMostSignificantBitFirst := by
  intro s b k xs rest hs harm hk hlen hi
  obtain ⟨v, vs, rfl⟩ := List.exists_cons_of_length_eq_add_one hlen
  obtain rfl : vs.length = k := Nat.succ.inj hlen
  have hstep : step s = .next (rdPrepOp b { s with inputs := clockEvents b false vs ++ rest }) :=
    step_clock_selects hi hs (by rw [harm]; rfl)
  obtain ⟨t, hrun, ht⟩ := run_sent_bits (busAt_rdPrep_sentBits rfl _) harm hk (case_inputs (event_case hi hstep))
  refine ⟨t, (run_succ hstep).trans hrun, ?_⟩
  rw [ht]
  refine ⟨rfl, ?_, ?_⟩
  · rw [sentBits, show 8 - (1 + vs.length) = 7 - vs.length by omega]
  · simp only [sentBits, show 1 + vs.length = 8 ↔ vs.length = 7 by omega]

end Sys2Proof.Machine
end

section
/-! PROOFS. The statements about the device register state machine (spec/42_device_fsm.md R186 to R198): the command
rows, the bytes of single and block transfers, accesses out of turn, and a block as a walk over registers. -/

namespace Sys2Proof.Machine

/-! ## The operation a byte written or requested selects (R185) -/

section
variable {d : DevId} {s : State}

theorem devWrite_of_blockCount (v : Byte) (h : (s.devAt d).dstate = .blockCount) :
    devWrite d v s = dwBlockCountOp d v s := by rw [devWrite, h]

theorem devWrite_of_blockRw (v : Byte) (h : (s.devAt d).dstate = .blockRw) :
    devWrite d v s = dwBlockRwOp d v s := by rw [devWrite, h]

theorem devWrite_of_invalid (v : Byte) (h : (s.devAt d).dstate = .invalid) : devWrite d v s = s := by
  rw [devWrite, h, dwInvalidOp, drop_eq]

theorem devRead_of_idle (h : (s.devAt d).dstate = .idle) : devRead d s = (⟨0x00, true⟩, s) := by
  rw [devRead, h, drIdleOp, drop_eq]

theorem devRead_of_single (h : (s.devAt d).dstate = .single) : devRead d s = drSingleOp d s := by rw [devRead, h]

theorem devRead_of_blockCount (h : (s.devAt d).dstate = .blockCount) : devRead d s = drBlockCountOp d s := by
  rw [devRead, h]

theorem devRead_of_blockRw (h : (s.devAt d).dstate = .blockRw) : devRead d s = drBlockRwOp d s := by rw [devRead, h]

theorem devRead_of_invalid (h : (s.devAt d).dstate = .invalid) : devRead d s = (⟨0x00, true⟩, s) := by
  rw [devRead, h, drInvalidOp, drop_eq]

end

/-! ## One byte of a block, in numbers (R189, R194, R197) -/

theorem reg_succ (r : RegAddr) : r + 1 = BitVec.ofNat 7 ((r.toNat + 1) % 128) := by
  apply BitVec.eq_of_toNat_eq
  have h1 : (1 : RegAddr).toNat = 1 := rfl
  rw [BitVec.toNat_add, BitVec.toNat_ofNat, h1]
  omega

theorem cnt_pred (c : Byte) : c - 1 = BitVec.ofNat 8 ((c.toNat + 255) % 256) := by
  apply BitVec.eq_of_toNat_eq
  have h1 : (1 : Byte).toNat = 1 := rfl
  rw [BitVec.toNat_sub, BitVec.toNat_ofNat, h1]
  omega

theorem cnt_pred_eq_zero_iff (c : Byte) : c - 1 = 0 ↔ c = 1 := sub_eq_zero

/-- One byte of a block done, with the arithmetic of the two fields written out. -/
theorem blockAdvance_eq (D : DevCtx) : blockAdvance D = { D with
    reg := BitVec.ofNat 7 ((D.reg.toNat + 1) % 128),
    cnt := BitVec.ofNat 8 ((D.cnt.toNat + 255) % 256),
    dstate := if D.cnt = 1 then .invalid else D.dstate } := by
  simp only [blockAdvance, reg_succ, cnt_pred_eq_zero_iff, ← cnt_pred]

/-- The mark of a block read's byte, written out. -/
theorem lastOfBlock_eq (c : Byte) : (c - 1 == 0) = decide (c = 1) := by
  rw [Bool.eq_iff_iff, beq_iff_eq, decide_eq_true_iff, cnt_pred_eq_zero_iff]

/-- A register read leaves the device contexts as they are. -/
theorem rfRead_devAt (d : DevId) (r : RegAddr) (s : State) (d' : DevId) : (rfRead d r s).2.devAt d' = s.devAt d' := by
  unfold State.devAt
  rw [(rfRead_effect d r s).2.1]

theorem dwBlockRwOp_effect (d : DevId) (v : Byte) (s : State) : DevEffect d s (dwBlockRwOp d v s) :=
  (rfWrite_effect d _ v s).trans (modDev_effect d _ _)

theorem drSingleOp_effect (d : DevId) (s : State) : DevEffect d s (drSingleOp d s).2 := by
  unfold drSingleOp
  dsimp only
  exact (rfRead_effect d _ s).1.trans (modDev_effect d _ _)

theorem drBlockRwOp_effect (d : DevId) (s : State) : DevEffect d s (drBlockRwOp d s).2 := by
  unfold drBlockRwOp
  dsimp only
  exact (rfRead_effect d _ s).1.trans (modDev_effect d _ _)

theorem cmdByte_fields : ∀ (blk : Bool) (r : RegAddr), cmdReg (cmdByte blk r) = r ∧ cmdBlk (cmdByte blk r) = blk := by
  decide

/-- DW.IDLE with a command byte given by its fields (R92, R186). -/
theorem devAt_dwIdleOp_cmdByte (d : DevId) (blk : Bool) (r : RegAddr) (s : State) :
    (dwIdleOp d (cmdByte blk r) s).devAt d =
      { s.devAt d with reg := r, dstate := if blk then .blockCount else .single } := by
  obtain ⟨hreg, hblk⟩ := cmdByte_fields blk r
  rw [dwIdleOp, devAt_modDev_self, hreg, hblk]

/-- An update that changes nothing in the device it is of. -/
theorem modDev_of_eq {s : State} {d : DevId} {f : DevCtx → DevCtx} (h : f (s.devAt d) = s.devAt d) :
    s.modDev d f = s := by
  rw [State.modDev, h]
  simp [State.devAt]

/-! ## A block write is its register writes in order -/

/-- The register writes of a block's bytes, at `r` and the registers after it. -/
def writeFrom (d : DevId) (r : RegAddr) (vs : List Byte) (s : State) : State :=
  vs.zipIdx.foldl (fun u vi => rfWrite d (r + BitVec.ofNat 7 vi.2) vi.1 u) s

/-- The bytes of a block, given to the device one after the other. -/
def writeAll (d : DevId) (vs : List Byte) (s : State) : State := vs.foldl (fun u v => devWrite d v u) s

theorem writeFrom_concat (d : DevId) (r : RegAddr) (vs : List Byte) (v : Byte) (s : State) :
    writeFrom d r (vs ++ [v]) s = rfWrite d (r + BitVec.ofNat 7 vs.length) v (writeFrom d r vs s) := by
  simp [writeFrom, List.zipIdx_append]

theorem writeAll_concat (d : DevId) (vs : List Byte) (v : Byte) (s : State) :
    writeAll d (vs ++ [v]) s = devWrite d v (writeAll d vs s) := by
  simp [writeAll]

theorem writeFrom_effect (d : DevId) (r : RegAddr) (vs : List Byte) (s : State) :
    DevEffect d s (writeFrom d r vs s) := by
  induction vs using List.reverseRecOn with
  | nil => exact .refl d s
  | append_singleton vs v ih =>
    rw [writeFrom_concat]
    exact ih.trans (rfWrite_effect d _ v _)

/-- The state of a device after `n` bytes of a block of `c`. -/
def blockState (c : Byte) (n : Nat) : DevState := if n = c.toNat then .invalid else .blockRw

/-- A count of which `n` bytes are done runs out exactly at the last of them. -/
theorem cnt_sub_eq_zero_iff {c : Byte} {n : Nat} (h : n ≤ c.toNat) : c - BitVec.ofNat 8 n = 0 ↔ n = c.toNat := by
  have hc := c.isLt
  rw [sub_eq_zero]
  constructor
  · intro e
    have := congrArg BitVec.toNat e
    rw [BitVec.toNat_ofNat] at this
    omega
  · intro e
    apply BitVec.eq_of_toNat_eq
    rw [BitVec.toNat_ofNat]
    omega

theorem cnt_sub_succ (c : Byte) (n : Nat) : c - BitVec.ofNat 8 n - 1 = c - BitVec.ofNat 8 (n + 1) := by
  rw [BitVec.ofNat_add, sub_sub]
  rfl

theorem reg_add_succ (r : RegAddr) (n : Nat) : r + BitVec.ofNat 7 n + 1 = r + BitVec.ofNat 7 (n + 1) := by
  rw [BitVec.ofNat_add, ← BitVec.add_assoc]
  rfl

/-- One byte more of a running block, on the fields of the state machine. -/
theorem blockAdvance_setCtl (r : RegAddr) {c : Byte} {n : Nat} (h : n < c.toNat) (D : DevCtx) :
    blockAdvance (setCtl (r + BitVec.ofNat 7 n) (c - BitVec.ofNat 8 n) (blockState c n) D) =
      setCtl (r + BitVec.ofNat 7 (n + 1)) (c - BitVec.ofNat 8 (n + 1)) (blockState c (n + 1)) D := by
  have hrun : blockState c n = .blockRw := if_neg (by omega)
  simp only [blockAdvance, setCtl, hrun, reg_add_succ, cnt_sub_succ, cnt_sub_eq_zero_iff (Nat.succ_le_of_lt h)]
  rfl

section
variable {d : DevId} {s : State} (hs : (s.devAt d).dstate = .blockRw) (hc : (s.devAt d).countOk = true)
include hs hc

/-- A running block has a count to run (R189). -/
theorem running_count_ne_zero : (s.devAt d).cnt.toNat ≠ 0 := by
  intro e
  exact (devCountOk_iff _).1 hc hs (BitVec.eq_of_toNat_eq e)

/-- Before its first byte a running block is where it is. -/
theorem setCtl_start : setCtl ((s.devAt d).reg + BitVec.ofNat 7 0) ((s.devAt d).cnt - BitVec.ofNat 8 0)
    (blockState (s.devAt d).cnt 0) (s.devAt d) = s.devAt d := by
  have hrun : blockState (s.devAt d).cnt 0 = .blockRw := if_neg (running_count_ne_zero hs hc).symm
  rw [hrun, ← hs, BitVec.add_zero, BitVec.sub_zero]
  rfl

/-- The bytes of a block do what their register writes do, and move the state machine on by their number. -/
theorem writeAll_eq_writeFrom (vs : List Byte) (h : vs.length ≤ (s.devAt d).cnt.toNat) :
    writeAll d vs s = (writeFrom d (s.devAt d).reg vs s).modDev d
      (setCtl ((s.devAt d).reg + BitVec.ofNat 7 vs.length) ((s.devAt d).cnt - BitVec.ofNat 8 vs.length)
        (blockState (s.devAt d).cnt vs.length)) := by
  induction vs using List.reverseRecOn with
  | nil => exact (modDev_of_eq (setCtl_start hs hc)).symm
  | append_singleton vs v ih =>
    rw [List.length_append, List.length_singleton] at h ⊢
    have hlt : vs.length < (s.devAt d).cnt.toNat := by omega
    have hrun : blockState (s.devAt d).cnt vs.length = .blockRw := if_neg (by omega)
    rw [writeAll_concat, ih (by omega), writeFrom_concat, devWrite_of_blockRw v (by rw [devAt_modDev_self]; exact hrun),
      dwBlockRwOp, devAt_modDev_self, rfWrite_setCtl, modDev_modDev]
    simp only [blockAdvance_setCtl _ hlt]
    rfl

/-- A running block read, after `n` of its bytes. -/
theorem devAt_iterate_devRead (n : Nat) (h : n < (s.devAt d).cnt.toNat) :
    ((fun u => (devRead d u).2)^[n] s).devAt d =
      setCtl ((s.devAt d).reg + BitVec.ofNat 7 n) ((s.devAt d).cnt - BitVec.ofNat 8 n)
        (blockState (s.devAt d).cnt n) (s.devAt d) := by
  induction n with
  | zero => exact (setCtl_start hs hc).symm
  | succ n ih =>
    have hrun : blockState (s.devAt d).cnt n = .blockRw := if_neg (by omega)
    have hn := ih (by omega)
    rw [Function.iterate_succ_apply', devRead_of_blockRw (by rw [hn]; exact hrun), drBlockRwOp, devAt_modDev_self,
      rfRead_devAt, hn, blockAdvance_setCtl _ (by omega)]

end

/-! ## The statements -/

/-- Settles O29: both rows are DW.IDLE with their byte. -/
theorem commandRowsRunTheirCommandByte : Obligations.CommandRowsRunTheirCommandByte := by
  intro d r s
  constructor
  · exact ⟨dwIdleOp d (cmdByte false r) s, rfl, onlyDev_modDev s d _, devAt_dwIdleOp_cmdByte d false r s,
      devWrite_of_idle _⟩
  · exact ⟨dwIdleOp d (cmdByte true r) s, rfl, onlyDev_modDev s d _, devAt_dwIdleOp_cmdByte d true r s,
      devWrite_of_idle _⟩

/-- Settles O31: DW.BLOCK_COUNT is one update of the device context. -/
theorem blockWriteCountIsLoaded : Obligations.BlockWriteCountIsLoaded := by
  intro d v s
  exact ⟨dwBlockCountOp d v s, rfl, onlyDev_modDev s d _, devAt_modDev_self s d _, devWrite_of_blockCount v⟩

/-- Settles O32: the register write leaves the state machine's fields, and one byte of the block advances them. -/
theorem blockWriteByteCommitsAndAdvances : Obligations.BlockWriteByteCommitsAndAdvances := by
  rintro d v s u rfl
  have heff := dwBlockRwOp_effect d v s
  have hdraws : (dwBlockRwOp d v s).draws = s.draws := rfWrite_draws d _ v s
  obtain ⟨hstate, hreg, hcnt⟩ := rfWrite_machine d (s.devAt d).reg v s
  refine ⟨dwBlockRwOp d v s, rfl, ?_, heff.otherDev, rfl, heff.bus, heff.inputs, heff.answer, hdraws,
    devWrite_of_blockRw v⟩
  rw [dwBlockRwOp, devAt_modDev_self, blockAdvance_eq, hstate, hreg, hcnt]

/-- Settles O33: the operations of the two states are the placeholder and the state itself. -/
theorem outOfTurnAccessesAreHarmless : Obligations.OutOfTurnAccessesAreHarmless := by
  intro d v s
  exact ⟨rfl, rfl, rfl, fun h => ⟨devWrite_of_invalid v h, devRead_of_invalid h⟩, devRead_of_idle⟩

/-- Settles O34: DR.SINGLE is a register read and one update of the device context. -/
theorem singleReadReturnsTheRegisterMarkedLast : Obligations.SingleReadReturnsTheRegisterMarkedLast := by
  intro d x s u hr
  have heff := drSingleOp_effect d s
  have htel := (rfRead_effect d (s.devAt d).reg s).2.2
  have hop : drSingleOp d s = (⟨x, true⟩, u.modDev d fun D => { D with dstate := .invalid }) := by
    rw [drSingleOp, hr]
  have hdev := rfRead_devAt d (s.devAt d).reg s d
  rw [hop] at heff
  rw [hr] at htel hdev
  refine ⟨_, congrArg (fun y => Host.Outcome.next (replyTo y)) hop, ?_, heff.otherDev, htel, heff.bus, heff.inputs,
    heff.answer, rfl, fun h => (devRead_of_single h).trans hop⟩
  rw [devAt_modDev_self, hdev]

/-- Settles O35: DR.BLOCK_COUNT is one update of the device context. -/
theorem blockReadStartsWithTheReadCount : Obligations.BlockReadStartsWithTheReadCount := by
  intro d s
  exact ⟨s.modDev d fun D => { D with cnt := D.rdcnt, dstate := if D.rdcnt = 0 then .invalid else .blockRw }, rfl,
    onlyDev_modDev s d _, devAt_modDev_self s d _, devRead_of_blockCount⟩

/-- Settles O36: DR.BLOCK_RW is a register read and one byte of the block. -/
theorem blockReadByteAdvancesAndMarksTheLast : Obligations.BlockReadByteAdvancesAndMarksTheLast := by
  intro d x s u hr
  have heff := drBlockRwOp_effect d s
  have htel := (rfRead_effect d (s.devAt d).reg s).2.2
  have hop : drBlockRwOp d s = (⟨x, decide ((s.devAt d).cnt = 1)⟩, u.modDev d blockAdvance) := by
    rw [drBlockRwOp, hr, lastOfBlock_eq]
  have hdev := rfRead_devAt d (s.devAt d).reg s d
  rw [hop] at heff
  rw [hr] at htel hdev
  refine ⟨_, congrArg (fun y => Host.Outcome.next (replyTo y)) hop, ?_, heff.otherDev, htel, heff.bus, heff.inputs,
    heff.answer, rfl, fun h => (devRead_of_blockRw h).trans hop⟩
  rw [devAt_modDev_self, hdev, blockAdvance_eq]

/-- Settles O37: a block write is its register writes, and a block read has the walk's register and count. -/
theorem blocksWalkConsecutiveRegisters : Obligations.BlocksWalkConsecutiveRegisters := by
  rintro d s r c hs hc rfl rfl
  constructor
  · rintro vs t w hlen rfl rfl
    have hall := writeAll_eq_writeFrom hs hc vs hlen
    have heff := writeFrom_effect d (s.devAt d).reg vs s
    rw [← writeAll, hall, ← writeFrom]
    refine ⟨rfl, rfl, fun d' hd' => ?_, devAt_modDev_self _ d _⟩
    rw [devAt_modDev_of_ne _ _ hd', heff.otherDev d' hd']
  · rintro n t hn rfl
    have hdev := devAt_iterate_devRead hs hc n hn
    have hrun : blockState (s.devAt d).cnt n = .blockRw := if_neg (by omega)
    rw [devRead_of_blockRw (by rw [hdev]; exact hrun), drBlockRwOp, hdev]
    refine ⟨rfl, ?_⟩
    show ((s.devAt d).cnt - BitVec.ofNat 8 n - 1 == 0) = decide (n + 1 = (s.devAt d).cnt.toNat)
    rw [Bool.eq_iff_iff, beq_iff_eq, decide_eq_true_iff, cnt_sub_succ, cnt_sub_eq_zero_iff hn]

end Sys2Proof.Machine
end

section
/-! PROOFS. The statements about the register file and the main-loop port (spec/43_register_file.md R215 to R237). -/

namespace Sys2Proof.Machine

/-! ## A write of a telemetry element reaches nothing else -/

theorem writeRequested_onlyTel (s : State) (i : Nat) (x : Tach) : OnlyTel s (s.writeRequested i x) :=
  ⟨writeRequested_bus s i x, writeRequested_dev s i x, writeRequested_inputs s i x, writeRequested_answer s i x,
    writeRequested_draws s i x⟩

theorem writeEnabled_onlyTel (s : State) (i : Nat) (v : Bool) : OnlyTel s (s.writeEnabled i v) :=
  ⟨writeEnabled_bus s i v, writeEnabled_dev s i v, writeEnabled_inputs s i v, writeEnabled_answer s i v,
    writeEnabled_draws s i v⟩

theorem setRpm_onlyTel (s : State) (v : Bool) : OnlyTel s (s.setRpm v) := ⟨rfl, rfl, rfl, rfl, rfl⟩

theorem setStart_onlyTel (s : State) (v : Bool) : OnlyTel s (s.setStart v) := ⟨rfl, rfl, rfl, rfl, rfl⟩

theorem writeActual_onlyTel (s : State) (i : SlotId) (x : Tach) : OnlyTel s (s.writeActual i x) :=
  ⟨rfl, rfl, rfl, rfl, rfl⟩

theorem OnlyTel.trans {s t u : State} (h : OnlyTel s t) (k : OnlyTel t u) : OnlyTel s u :=
  ⟨k.bus.trans h.bus, k.dev.trans h.dev, k.inputs.trans h.inputs, k.answer.trans h.answer, k.draws.trans h.draws⟩

/-! ## The register writes -/

/-- Both enable flags after RF.W.ENABLE (R217). -/
theorem rfWriteEnable_enabledAt (d : DevId) (v : Byte) (s : State) (j : SlotId) :
    (rfWriteEnable d v s).enabledAt j =
      if j.val = 2 * d.val then v.getLsbD 6 else if j.val = 2 * d.val + 1 then v.getLsbD 7 else s.enabledAt j := by
  simp only [rfWriteEnable, writeEnabled_get, slot0, slot1, enable0, enable1]
  by_cases h0 : j.val = 2 * d.val
  · rw [if_neg (by omega), if_pos h0.symm, if_pos h0]
  · rw [if_neg (Ne.symm h0), if_neg h0]
    simp only [eq_comm]

theorem rfWriteEnable_tel (d : DevId) (v : Byte) (s : State) :
    (rfWriteEnable d v s).tel = { s.tel with enabled := (rfWriteEnable d v s).tel.enabled } := by
  ext1 <;> simp [rfWriteEnable]

theorem privileged_iff (d : DevId) : privileged d = true ↔ d = 6 := beq_iff_eq

/-- The commit of the second slot, with its trigger as an update of the flag (R221, R230). -/
theorem rfWriteReq1Hi_eq (d : DevId) (v : Byte) (s : State) :
    rfWriteReq1Hi d v s = (s.writeRequested (slot1 d) (combine16 v (s.devAt d).stage)).setRpm
      (if d = 6 then true else s.tel.rpmUpdateRequested) := by
  by_cases hd : d = 6
  · rw [rfWriteReq1Hi, if_pos ((privileged_iff d).2 hd), if_pos hd]
  · rw [rfWriteReq1Hi, if_neg (mt (privileged_iff d).1 hd), if_neg hd,
      ← writeRequested_rpmUpdateRequested s (slot1 d) (combine16 v (s.devAt d).stage)]
    rfl

/-! ## The register reads -/

/-- The byte of an actual value is what its slot's value gives, 0x00 without a slot (R229). -/
theorem actualByte_eq {s : State} {i : Nat} {part : Tach → Byte} {x : Byte}
    (hslot : ∀ j : SlotId, j.val = i → x = part (s.actualAt j)) (hnone : ¬i < 14 → x = 0x00) :
    s.actualByte i part = x := by
  unfold State.actualByte
  split
  · exact (hslot ⟨i, ‹_›⟩ rfl).symm
  · exact (hnone ‹_›).symm

theorem actualByte_congr {s t : State} (h : t.tel.actualTach = s.tel.actualTach) (i : Nat) (part : Tach → Byte) :
    t.actualByte i part = s.actualByte i part := by
  unfold State.actualByte State.actualAt
  rw [h]

theorem lowByte_eq (x : Tach) : lowByte x = BitVec.ofNat 8 (x.toNat % 256) := by
  apply BitVec.eq_of_toNat_eq
  rw [lowByte, BitVec.extractLsb'_toNat, BitVec.toNat_ofNat, Nat.shiftRight_zero]
  omega

theorem highByte_eq (x : Tach) : highByte x = BitVec.ofNat 8 (x.toNat / 256) := by
  apply BitVec.eq_of_toNat_eq
  rw [highByte, BitVec.extractLsb'_toNat, BitVec.toNat_ofNat, Nat.shiftRight_eq_div_pow]

/-- A read-back register answers from the actual values alone (R237). -/
theorem rfRead_of_readMeaning {d : DevId} {r : RegAddr} (hr : readMeaning r = true) {s t : State}
    (h : t.tel.actualTach = s.tel.actualTach) : (rfRead d r t).1 = (rfRead d r s).1 := by
  simp only [readMeaning, Bool.or_eq_true, beq_iff_eq] at hr
  rcases hr with ((rfl | rfl) | rfl) | rfl <;> exact actualByte_congr h _ _

/-! ## The table's rows (R215) -/

theorem exec_reg7WRow (d : DevId) (r : RegAddr) (v : Byte) (s : State) :
    exec (reg7WRow d r v) s = .next (rfWrite d r v s) :=
  rfWrite_elim (P := fun r t => exec (reg7WRow d r v) s = .next t) d v s
    (rdcnt := rfl) (enable := rfl) (req0Lo := rfl) (req0Hi := rfl) (req1Lo := rfl) (req1Hi := rfl) (startTrig := rfl)
    (hole := fun r hr => by rw [reg7WRow_hole d v hr]; rfl) r

theorem exec_reg7RRow (d : DevId) (r : RegAddr) (s : State) :
    exec (reg7RRow d r) s = .next { (rfRead d r s).2 with answer := .byte (rfRead d r s).1 } :=
  rfRead_elim (P := fun r x => exec (reg7RRow d r) s = .next { x.2 with answer := .byte x.1 }) d s
    (act0Lo := rfl) (act0Hi := rfl) (act1Lo := rfl) (act1Hi := rfl)
    (hole := fun r hr => by rw [reg7RRow_hole d hr]; rfl) r

/-! ## The statements -/

/-- Settles O40: the read-count is one update of the device context, the enable flags are two writes of slots. -/
theorem readCountAndEnableWritesReachTheirOwnDevice : Obligations.ReadCountAndEnableWritesReachTheirOwnDevice := by
  intro d v s
  constructor
  · exact ⟨rfWriteRdcnt d v s, rfl, onlyDev_modDev s d _, devAt_modDev_self s d _⟩
  · exact ⟨rfWriteEnable d v s, rfl, (writeEnabled_onlyTel s _ _).trans (writeEnabled_onlyTel _ _ _),
      rfWriteEnable_enabledAt d v s, rfWriteEnable_tel d v s⟩

/-- Settles O41: one write of the first slot, of the combined value. -/
theorem firstHighByteCommitsTheFirstSlot : Obligations.FirstHighByteCommitsTheFirstSlot := by
  intro d v s
  refine ⟨rfWriteReq0Hi d v s, rfl, writeRequested_onlyTel s _ _, fun j => ?_, ?_⟩
  · rw [rfWriteReq0Hi, writeRequested_get, combine16_toNat, slot0]
    simp only [eq_comm]
  · simp [rfWriteReq0Hi]

/-- Settles O42: one write of the second slot, and the flag. -/
theorem secondHighByteCommitsAndTriggersOnDevice6 : Obligations.SecondHighByteCommitsAndTriggersOnDevice6 := by
  intro d v s
  refine ⟨_, congrArg Host.Outcome.next (rfWriteReq1Hi_eq d v s),
    (writeRequested_onlyTel s _ _).trans (setRpm_onlyTel _ _), fun j => ?_, ?_⟩
  · rw [setRpm_requestedAt, writeRequested_get, combine16_toNat, slot1]
    simp only [eq_comm]
  · simp

/-- Settles O43, by the privilege. -/
theorem startTriggerActsOnDevice6AndHolesIgnore : Obligations.StartTriggerActsOnDevice6AndHolesIgnore := by
  intro d r v s
  refine ⟨rfl, fun hd => ?_, fun hd => ?_⟩
  · exact congrArg _ (if_neg (mt (privileged_iff d).1 hd))
  · exact ⟨s.setStart true, congrArg _ (if_pos ((privileged_iff d).2 hd)), setStart_onlyTel s true, rfl⟩

/-- Settles O44: each of the four is a byte of the actual value of its slot. -/
theorem actualTachReadsBackByteByByte : Obligations.ActualTachReadsBackByteByByte := by
  intro d s k i x hi hslot hnone
  have answer {part : Tach → Byte} (h : s.actualByte (2 * d.val + k / 2) part = x) :
      Host.Outcome.next (s.answering (.byte (s.actualByte (2 * d.val + k / 2) part))) =
        (.next { s with answer := .byte x } : Outcome) := by
    rw [h]
    rfl
  rcases hi with ⟨rfl, rfl⟩ | ⟨rfl, rfl⟩ | ⟨rfl, rfl⟩ | ⟨rfl, rfl⟩
  · exact answer (actualByte_eq (part := lowByte) (fun j hj => (hslot j hj).trans (lowByte_eq _).symm) hnone)
  · exact answer (actualByte_eq (part := highByte) (fun j hj => (hslot j hj).trans (highByte_eq _).symm) hnone)
  · exact answer (actualByte_eq (part := lowByte) (fun j hj => (hslot j hj).trans (lowByte_eq _).symm) hnone)
  · exact answer (actualByte_eq (part := highByte) (fun j hj => (hslot j hj).trans (highByte_eq _).symm) hnone)

/-- Settles O45: RF.R.NONE is one draw for the device's bus. -/
theorem otherReadsAnswerAFreshUnspecifiedByte : Obligations.OtherReadsAnswerAFreshUnspecifiedByte := by
  intro d r s
  exact ⟨(s.drawAny8 (busOf d)).2.answering (.byte (s.drawAny8 (busOf d)).1), rfl, rfl,
    drawAny8_drawsAt_self s (busOf d), fun _ hb => drawAny8_drawsAt_of_ne s hb, rfl, rfl, rfl, rfl⟩

/-- Settles O46: the table's row of an address has the meaning the register file dispatches to. -/
theorem registerAccessPerformsItsTableRow : Obligations.RegisterAccessPerformsItsTableRow := by
  intro d r v s
  refine ⟨exec_reg7WRow d r v s, exec_reg7RRow d r s, fun d' => ?_⟩
  have hread := rfRead_devAt d r s d'
  by_cases hd : d' = d
  · subst hd
    obtain ⟨hstate, hreg, hcnt⟩ := rfWrite_machine d' r v s
    exact ⟨hstate, hreg, hcnt, hread⟩
  · rw [(rfWrite_effect d r v s).otherDev d' hd]
    exact ⟨rfl, rfl, rfl, hread⟩

/-- Settles O47: no register write reaches the actual values, and the read-back registers read nothing else. -/
theorem writesDoNotShowInTheReadBackRegisters : Obligations.WritesDoNotShowInTheReadBackRegisters := by
  intro d d' r r' v s hr
  exact rfRead_of_readMeaning hr (rfWrite_effect d r v s).actual

/-- Settles O48: the three meanings, written out. -/
theorem portReadsRequestsAndTestsAndClears : Obligations.PortReadsRequestsAndTestsAndClears := by
  intro k s
  exact ⟨rfl, rfl, rfl⟩

/-- Settles O49: HOST.WR_ACT is one write of a slot. -/
theorem portReadsEnablesAndWritesActuals : Obligations.PortReadsEnablesAndWritesActuals := by
  intro k x s
  refine ⟨rfl, s.writeActual k x, rfl, writeActual_onlyTel s k x, fun j => ?_, rfl⟩
  by_cases hj : j = k
  · rw [if_pos hj, hj, writeActual_self]
  · rw [if_neg hj, writeActual_of_ne s x hj]

end Sys2Proof.Machine
end

section
/-! PROOFS. The safety statements about the whole machine: what leaves `INVALID` (spec/42_device_fsm.md R185), what
raises a request flag (spec/60_exceptions.md R264), what changes an actual tach value (spec/10_state.md R40). -/

namespace Sys2Proof.Machine

/-! ## Out of `INVALID` (R185) -/

/-- An event takes a device out of `INVALID` only by a delivered stop that is told to it. -/
theorem case_leaves_invalid {b line scl sda} {s t : State} (h : EventCase b line scl sda s t) {d : DevId}
    (hs : (s.devAt d).dstate = .invalid) (ht : (t.devAt d).dstate ≠ .invalid) :
    (t.devAt d).dstate = .idle ∧ line = .data ∧ scl = true ∧ sda = true ∧
      monitored (s.busAt b).sdaMon = true ∧ (s.busAt b).maddrValid = true ∧ route b (s.busAt b).maddr = .dev d := by
  rcases case_dev h with same | ⟨e, hother, hown⟩
  · rw [same] at ht
    exact absurd hs ht
  obtain rfl : d = e := by
    by_contra hne
    rw [hother d hne] at ht
    exact ht hs
  rcases hown with ⟨stop, rest⟩ | ⟨read, _⟩ | ⟨write, _⟩
  · rw [stop, devStop, devAt_modDev_self]
    exact ⟨rfl, rest⟩
  · rw [read, devRead_of_invalid hs] at ht
    exact absurd hs ht
  · rw [write, devWrite_of_invalid _ hs] at ht
    exact absurd hs ht

/-! ## What raises a request flag (R221, R222, R264) -/

/-- A telemetry change raises the flag that belongs to register `r`: `rpmUpdateRequested` for 0x2D, `startRequested`
for 0x3C. -/
def RaisesFlag (r : RegAddr) (T T' : Telemetry) : Prop :=
  (r = 0x2D#7 ∧ T.rpmUpdateRequested = false ∧ T'.rpmUpdateRequested = true) ∨
  (r = 0x3C#7 ∧ T.startRequested = false ∧ T'.startRequested = true)

/-- A flag that is kept or cleared is not raised. -/
theorem not_raisesFlag {r : RegAddr} {T T' : Telemetry}
    (hr : T'.rpmUpdateRequested = true → T.rpmUpdateRequested = true)
    (hs : T'.startRequested = true → T.startRequested = true) : ¬RaisesFlag r T T' := by
  rintro (⟨_, h0, h1⟩ | ⟨_, h0, h1⟩)
  · rw [hr h1] at h0
    cases h0
  · rw [hs h1] at h0
    cases h0

theorem not_raisesFlag_self (r : RegAddr) (T : Telemetry) : ¬RaisesFlag r T T := not_raisesFlag id id

/-- A write of register `a` raises a flag only on the privileged device, and only the flag of that register. -/
theorem rfWrite_raisesFlag {d : DevId} {a r : RegAddr} {v : Byte} {s : State}
    (h : RaisesFlag r s.tel (rfWrite d a v s).tel) : d = 6 ∧ a = r := by
  refine rfWrite_elim (P := fun a t => RaisesFlag r s.tel t.tel → d = 6 ∧ a = r) d v s
    (rdcnt := fun h => (not_raisesFlag_self r _ h).elim)
    (enable := fun h => (not_raisesFlag (by simp [rfWriteEnable]) (by simp [rfWriteEnable]) h).elim)
    (req0Lo := fun h => (not_raisesFlag_self r _ h).elim)
    (req0Hi := fun h => (not_raisesFlag (by simp [rfWriteReq0Hi]) (by simp [rfWriteReq0Hi]) h).elim)
    (req1Lo := fun h => (not_raisesFlag_self r _ h).elim)
    (req1Hi := fun h => ?_) (startTrig := fun h => ?_)
    (hole := fun _ _ h => (not_raisesFlag_self r _ h).elim) a h
  · rw [rfWriteReq1Hi_eq] at h
    by_cases hd : d = 6
    · rcases h with ⟨hr, _, _⟩ | ⟨_, h0, h1⟩
      · exact ⟨hd, hr.symm⟩
      · rw [setRpm_startRequested, writeRequested_startRequested, h0] at h1
        cases h1
    · rw [if_neg hd] at h
      exact (not_raisesFlag (by simp) (by simp) h).elim
  · by_cases hd : d = 6
    · rw [rfWriteStartTrig, if_pos ((privileged_iff d).2 hd)] at h
      rcases h with ⟨_, h0, h1⟩ | ⟨hr, _, _⟩
      · rw [setStart_rpmUpdateRequested, h0] at h1
        cases h1
      · exact ⟨hd, hr.symm⟩
    · rw [rfWriteStartTrig, if_neg (mt (privileged_iff d).1 hd)] at h
      exact (not_raisesFlag_self r _ h).elim

/-- A byte written to a device raises a flag only as a register write, in a single write or in a block. -/
theorem devWrite_raisesFlag {d : DevId} {r : RegAddr} {v : Byte} {s : State}
    (h : RaisesFlag r s.tel (devWrite d v s).tel) :
    d = 6 ∧ (s.devAt d).reg = r ∧ ((s.devAt d).dstate = .single ∨ (s.devAt d).dstate = .blockRw) := by
  cases hs : (s.devAt d).dstate with
  | idle =>
    rw [devWrite_of_idle v hs] at h
    exact (not_raisesFlag_self r _ h).elim
  | single =>
    rw [devWrite_of_single v hs] at h
    obtain ⟨hd, hr⟩ := rfWrite_raisesFlag h
    exact ⟨hd, hr, .inl rfl⟩
  | blockCount =>
    rw [devWrite_of_blockCount v hs] at h
    exact (not_raisesFlag_self r _ h).elim
  | blockRw =>
    rw [devWrite_of_blockRw v hs] at h
    obtain ⟨hd, hr⟩ := rfWrite_raisesFlag h
    exact ⟨hd, hr, .inr rfl⟩
  | invalid =>
    rw [devWrite_of_invalid v hs] at h
    exact (not_raisesFlag_self r _ h).elim

/-- The address that leads to a device, in numbers (R98, R170). -/
theorem addr7_of_route {b : BusId} {a : Byte} {d : DevId} (h : route b a = .dev d) :
    ((addr7 a).toNat : Int) = 0x53 + 4 * (b.val : Int) - (d.val : Int) := by
  unfold route at h
  split_ifs at h with _ hi
  have hd := congrArg Fin.val (Route.dev.inj h)
  have hidx : deviceIndex b (addr7 a) = 4 * (b.val : Int) + (3 - ((addr7 a).toNat - 0x50 : Int)) := rfl
  simp only at hd
  omega

/-- An event raises a flag only as the acknowledge of a byte written to device 6, on bus 1 at address 0x51. -/
theorem case_raisesFlag {b line scl sda} {s t : State} (h : EventCase b line scl sda s t) (ha : s.AddrOk)
    {r : RegAddr} (hf : RaisesFlag r s.tel t.tel) :
    b = 1 ∧ line = .clock ∧ (s.busAt 1).state = .writeAck ∧ addr7 (s.busAt 1).addr = 0x51#7 ∧
      (s.devAt 6).reg = r ∧ ((s.devAt 6).dstate = .single ∨ (s.devAt 6).dstate = .blockRw) := by
  rcases case_tel h with same | ⟨hl, _, hs, htel⟩
  · rw [same] at hf
    exact (not_raisesFlag_self r _ hf).elim
  rw [htel] at hf
  have hm : matchAddr (addr7 (s.busAt b).addr) = true := addr_matches ha (by rw [hs]; rfl)
  rcases route_of_match (b := b) hm with hr | ⟨d, hr, hd⟩
  · rw [onByteWritten_of_aux hr] at hf
    exact (not_raisesFlag_self r _ hf).elim
  rw [onByteWritten_of_dev hr] at hf
  obtain ⟨rfl, hreg, hstate⟩ := devWrite_raisesFlag hf
  obtain rfl : 1 = b := hd
  refine ⟨rfl, hl, hs, BitVec.eq_of_toNat_eq ?_, hreg, hstate⟩
  have ha7 := addr7_of_route hr
  have h1 : ((1 : BusId).val : Int) = 1 := rfl
  have h6 : ((6 : DevId).val : Int) = 6 := rfl
  have h51 : (0x51#7).toNat = 0x51 := rfl
  omega

/-- A port operation raises no flag (R235, R236). -/
theorem port_raises_no_flag {i : Instr} (hi : i.format = .port) {s t : State} (h : exec i s = .next t)
    (r : RegAddr) : ¬RaisesFlag r s.tel t.tel := by
  cases i with
  | hostRdReq k => cases h; exact not_raisesFlag_self r _
  | hostRdEn k => cases h; exact not_raisesFlag_self r _
  | hostWrAct k x => cases h; exact not_raisesFlag id id
  | hostTacStart => cases h; exact not_raisesFlag id nofun
  | hostTacRpm => cases h; exact not_raisesFlag nofun id
  | _ => nomatch hi

/-! ## What changes an actual value (R40, R234) -/

/-- No event reaches the actual values. -/
theorem case_actualTach {b line scl sda} {s t : State} (h : EventCase b line scl sda s t) :
    t.tel.actualTach = s.tel.actualTach := by
  rcases case_tel h with same | ⟨_, _, _, htel⟩
  · rw [same]
  · rw [htel, (onByteWritten_frame b _ _ s).1.actual]

/-- A port operation that changes an actual value is HOST.WR_ACT. -/
theorem port_changes_actualTach {i : Instr} (hi : i.format = .port) {s t : State} (h : exec i s = .next t)
    (hne : t.tel.actualTach ≠ s.tel.actualTach) : ∃ k x, i = .hostWrAct k x ∧ t = s.writeActual k x := by
  cases i with
  | hostRdReq k => cases h; exact absurd rfl hne
  | hostRdEn k => cases h; exact absurd rfl hne
  | hostWrAct k x => cases h; exact ⟨k, x, rfl, rfl⟩
  | hostTacStart => cases h; exact absurd rfl hne
  | hostTacRpm => cases h; exact absurd rfl hne
  | _ => nomatch hi

/-! ## The statements -/

/-- Settles O53, by what one hardware step can do: only an event or reset reaches a device context. -/
theorem invalidDeviceWaitsForItsStop : Obligations.InvalidDeviceWaitsForItsStop := by
  intro s t d hn hstep hs ht
  rcases hw_cases hn hstep with ⟨_, rfl⟩ | ⟨b, line, scl, sda, rest, hi, hcase⟩ |
    ⟨_, _, _, _, _, _, _, _, hdev⟩ | ⟨rest, hi, rfl⟩
  · exact absurd hs ht
  · obtain ⟨hidle, rfl, rfl, rfl, hm, hv, hr⟩ := case_leaves_invalid hcase hs ht
    exact ⟨hidle, .inl ⟨b, rest, hi, (monitored_iff _).1 hm, hv, hr⟩⟩
  · have hd : t.devAt d = s.devAt d := by rw [State.devAt, hdev, State.devAt]
    rw [hd] at ht
    exact absurd hs ht
  · rw [resetBlock_devAt]
    exact ⟨rfl, .inr ⟨rest, hi⟩⟩

/-- Settles O54: of the inputs only an event can raise a flag, and it only through device 6. -/
theorem flagsRiseOnlyThroughThePrivilegedDevice : Obligations.FlagsRiseOnlyThroughThePrivilegedDevice := by
  intro s t r ha hn hstep hf
  have hf : RaisesFlag r s.tel t.tel := hf
  rcases hw_cases hn hstep with ⟨_, rfl⟩ | ⟨b, line, scl, sda, rest, hi, hcase⟩ |
    ⟨_, _, _, _, _, hport, hexec, _, _⟩ | ⟨rest, hi, rfl⟩
  · exact (not_raisesFlag_self r _ hf).elim
  · obtain ⟨rfl, rfl, hfacts⟩ := case_raisesFlag hcase ha hf
    exact ⟨⟨scl, sda, rest, hi⟩, hfacts⟩
  · exact (port_raises_no_flag hport hexec r hf).elim
  · have hreset : (State.resetBlock { s with inputs := rest }).tel = Telemetry.reset := rfl
    rw [hreset] at hf
    exact (not_raisesFlag (by simp [Telemetry.reset]) (by simp [Telemetry.reset]) hf).elim

/-- Settles O55: no event changes an actual value, and of the port only HOST.WR_ACT does. -/
theorem actualTachIsWrittenOnlyByTheMainLoop : Obligations.ActualTachIsWrittenOnlyByTheMainLoop := by
  intro s t hn hstep hne
  rcases hw_cases hn hstep with ⟨_, rfl⟩ | ⟨b, line, scl, sda, rest, hi, hcase⟩ |
    ⟨frame, i, rest, hi, hdec, hport, hexec, _, _⟩ | ⟨rest, hi, _⟩
  · exact absurd rfl hne
  · exact absurd (case_actualTach hcase) hne
  · obtain ⟨k, x, rfl, rfl⟩ := port_changes_actualTach hport hexec hne
    refine .inr ⟨frame, k, x, rest, hi, hdec, writeActual_self _ k x, fun j hj => ?_⟩
    exact writeActual_of_ne _ x hj
  · exact .inl ⟨rest, hi⟩

end Sys2Proof.Machine
end
